-- ==== Sys2Proof/Word.lean ====
section
/-! DEFINITION. The shapes of the block's words (00_scope.md section 4, 30_encoding.md): indices, command codes,
entry words, the table, and the abstract step record. -/

namespace Sys2Proof

/-- A 6-bit step index or descriptor field: `IDX_W = 6` (R8, R60). -/
abbrev Index := BitVec 6

/-- The 2-bit command code on `cmd_i` (R54). -/
abbrev CmdCode := BitVec 2

/-- The 32 entries of one envelope, by step index (R8, R40). An ENTRY word of `MAG_W + 3` bits (R56) is held as the unsigned
number its bits make: the width is a parameter of the instance (R10), so it is no part of the type; `Memory.wf` and
`Ports.wf` say that a word fits it. -/
abbrev Table := Vector Nat 32

/-- The four effects (R57). -/
inductive Effect where
  | step
  | attack
  | decay
  | slide
deriving DecidableEq, Repr

/-- The abstract envelope step an ENTRY word stands for: magnitude, effect, smoothed (R56). -/
structure Entry where
  mag : Int
  eff : Effect
  sm  : Bool
deriving DecidableEq, Repr

end Sys2Proof
end

