-- ==== Sys2Proof/Config.lean ====
section
/-! DEFINITION. The parameters the spec fixes per instance (R8 to R11) and per driver (R12). -/

namespace Sys2Proof

/-- `TRACK_KIND` (R3, R9). -/
inductive TrackKind where
  | amp
  | pitch
deriving DecidableEq, Repr

/-- The build-time parameters of one instance: `TRACK_KIND` (R9), `MAG_W` (R10), `FRAC_W` (R11). The widths
are OPEN in the spec, so the model takes them as arguments (log entry 1). -/
structure Params where
  kind  : TrackKind
  magW  : Nat
  fracW : Nat
deriving DecidableEq, Repr

/-- `MAG_MIN = -2^(MAG_W-1)` (R10). -/
def Params.magMin (p : Params) : Int := -(2 ^ (p.magW - 1) : Int)

/-- `MAG_MAX = 2^(MAG_W-1) - 1` (R10). -/
def Params.magMax (p : Params) : Int := 2 ^ (p.magW - 1) - 1

/-- The width of an ENTRY word, `MAG_W + 3` (R41, R56). -/
def Params.entryW (p : Params) : Nat := p.magW + 3

/-- The driver's parameters (R12): `STEP_SCALES_ADVANCE` (R116) and `GLIDE_PATH_REINIT` (R114). -/
structure DriverParams where
  stepScalesAdvance : Bool
  glidePathReinit   : Bool
deriving DecidableEq, Repr

/-- The spec's defaults of the driver's parameters: both false (R114, R116). -/
def DriverParams.default : DriverParams := { stepScalesAdvance := false, glidePathReinit := false }

/-- DESIGN CHOICE (log entry 2): the instance that `State.reset` is. The spec leaves `MAG_W` and `FRAC_W` open
and has both kinds; 6 and 8 are the widths its test vectors take. Statements about reset are about
`State.resetOf p` for every `p`, never about this value. -/
def Config.resetBuild : Params := { kind := .amp, magW := 6, fracW := 8 }

end Sys2Proof
end

