-- ==== Sys2Proof/Syntax.lean ====
section
/-! DEFINITION. The four commands (R54) with the operands they read from their ports (R55), and the input ports
that carry them (R20). -/

namespace Sys2Proof

/-- One command with its operands: a row of spec/opcode_table.json each. -/
inductive Instr where
  /-- NOP, the idle command (R74). -/
  | nop
  /-- INIT: `table_i`, `loop_i`, `end_i` (R75). -/
  | init (table : Table) (loopIdx : Index) (endIdx : Index)
  /-- ADVANCE: `released_i` (R77). -/
  | advance (released : Bool)
  /-- EVAL: `frac_i`, read as the unsigned number `f` (R85, R61). -/
  | eval (frac : Nat)
deriving DecidableEq, Repr

/-- What the input ports carry in one command step (R20). -/
structure Ports where
  rst       : Bool
  cmd       : CmdCode
  tableI    : Table
  loopI     : Index
  endI      : Index
  releasedI : Bool
  fracI     : Nat
deriving DecidableEq, Repr

/-- 32 zero words. -/
def Table.zero : Table := ⟨⟨List.replicate 32 0⟩, by simp⟩

/-- The ports of a step in which the driver asks for nothing: no reset, command NOP, every operand port at 0. -/
def Ports.idle : Ports :=
  { rst := false, cmd := 0b00#2, tableI := Table.zero, loopI := 0#6, endI := 0#6, releasedI := false, fracI := 0 }

end Sys2Proof
end

