-- ==== Sys2Proof/WellFormed.lean ====
section
/-! DEFINITION. The checks on parameters, words, commands and port values: each operand fits the width its port
has on the instance (R10, R11, R20, R41). The types carry the 2-bit and 6-bit widths already. -/

namespace Sys2Proof

/-- `MAG_W ≥ 6` (R10) and `FRAC_W ≥ 1` (R11). -/
def Params.wf (p : Params) : Bool := decide (6 ≤ p.magW) && decide (1 ≤ p.fracW)

/-- Every entry word fits `MAG_W + 3` bits (R41). -/
def Table.wf (p : Params) (t : Table) : Bool := t.toList.all fun w => decide (w < 2 ^ p.entryW)

/-- A magnitude in `[MAG_MIN, MAG_MAX]` (R10, R58). -/
def Entry.wf (p : Params) (e : Entry) : Bool := decide (p.magMin ≤ e.mag) && decide (e.mag ≤ p.magMax)

/-- The operands of a command fit the ports of the instance (R20, R61). -/
def Instr.wf (p : Params) : Instr → Bool
  | .nop => true
  | .init table _ _ => table.wf p
  | .advance _ => true
  | .eval frac => decide (frac < 2 ^ p.fracW)

/-- The port values fit the ports of the instance (R20). -/
def Ports.wf (p : Params) (q : Ports) : Bool := q.tableI.wf p && decide (q.fracI < 2 ^ p.fracW)

end Sys2Proof
end

