-- ==== Sys2Proof/Decode.lean ====
section
/-! DEFINITION. Reading ENTRY words and commands from bits (30_encoding.md), total on every input (R62), and the
encoders that write them from the same tables. -/

namespace Sys2Proof

/-- `v[lo+n-1:lo]` read as an unsigned number (R13). -/
def bitField (v lo n : Nat) : Nat := v / 2 ^ lo % 2 ^ n

/-- `sext_n(v)` for an `n`-bit pattern `v` (R14). -/
def sext (n v : Nat) : Int := if v < 2 ^ (n - 1) then (v : Int) else (v : Int) - 2 ^ n

/-- The two's-complement pattern of an integer on `n` bits: the inverse of `sext` on the range. -/
def toPattern (n : Nat) (z : Int) : Nat := (z % 2 ^ n).toNat

/-- The effect of an effect code (R57). All four codes are defined. -/
def decodeEffect : Nat → Effect
  | 0 => .step
  | 1 => .attack
  | 2 => .decay
  | _ => .slide

/-- The code of an effect (R57). -/
def effectCode : Effect → Nat
  | .step => 0b00
  | .attack => 0b01
  | .decay => 0b10
  | .slide => 0b11

/-- The step an ENTRY word stands for: `eff` in bits 1..0, `sm` in bit 2, `mag` above (R56, R58, R59). -/
def decodeEntry (p : Params) (w : Nat) : Entry :=
  { mag := sext p.magW (bitField w 3 p.magW)
    eff := decodeEffect (bitField w 0 2)
    sm := bitField w 2 1 == 1 }

/-- The ENTRY word of a step (R56). -/
def encodeEntry (p : Params) (e : Entry) : Nat :=
  effectCode e.eff + 4 * e.sm.toNat + 8 * toPattern p.magW e.mag

/-- The words a table port of the instance's width carries: each cut to `MAG_W + 3` bits (R20; log entry 6). -/
def Table.onPort (p : Params) (t : Table) : Table := ⟨⟨t.toList.map (· % 2 ^ p.entryW)⟩, by simp⟩

/-- The command on the ports: the CMD code (R54) picks it, and it takes the operand ports R55 names for it. -/
def decode (p : Params) (q : Ports) : Instr :=
  if q.cmd = 0b00#2 then .nop
  else if q.cmd = 0b01#2 then .init (q.tableI.onPort p) q.loopI q.endI
  else if q.cmd = 0b10#2 then .advance q.releasedI
  else .eval (q.fracI % 2 ^ p.fracW)

/-- The port values that give a command: its code (R54) and its operands (R55), every ignored port at 0. -/
def encode : Instr → Ports
  | .nop => Ports.idle
  | .init table loopIdx endIdx =>
    { Ports.idle with cmd := 0b01#2, tableI := table, loopI := loopIdx, endI := endIdx }
  | .advance released => { Ports.idle with cmd := 0b10#2, releasedI := released }
  | .eval frac => { Ports.idle with cmd := 0b11#2, fracI := frac }

/-- The ports carrying the command whose CMD word is the low two bits of `w`, with every operand port at 0.
The CMD word is two bits long (R53): a word's higher bits reach no port. -/
def portsOfWord (w : Nat) : Ports := { Ports.idle with cmd := BitVec.ofNat 2 w }

/-- The command of an opcode-table word. `nbits` is the table row's length in whole bytes; the CMD word is two bits (R53).
With the operand ports at 0 no width matters. -/
def decodeTableWord (_nbits w : Nat) : Option Instr := some (decode Config.resetBuild (portsOfWord w))

/-- The effect's name in the assembler syntax (R64). -/
def effectName : Effect → String
  | .step => "STEP"
  | .attack => "ATTACK"
  | .decay => "DECAY"
  | .slide => "SLIDE"

/-- An entry as R64 writes it: `(mag, EFFECT)` or `(mag, EFFECT, s)`. -/
def printEntry (e : Entry) : String :=
  "(" ++ toString e.mag ++ ", " ++ effectName e.eff ++ (if e.sm then ", s)" else ")")

/-- A command as R64 writes it; `env` is the name the program gives the envelope. -/
def printInstr (env : String) : Instr → String
  | .nop => "NOP"
  | .init _ _ _ => "INIT env=" ++ env
  | .advance released => "ADVANCE rel=" ++ (if released then "1" else "0")
  | .eval frac => "EVAL f=" ++ toString frac

end Sys2Proof
end

