-- ==== Sys2Proof/Machine/State.lean ====
section
/-! DEFINITION. The block's registers (R22), the input ports and their coming values, the reasons to stop, the
output ports (R21), and the state after reset (R107). -/

namespace Sys2Proof.Machine

/-- `fault_reason`: `NONE`, or `UNBOUND` with the code of the command that raised it (R22, R24, R92). -/
inductive FaultReason where
  | none
  | unbound (cmd : CmdCode)
deriving DecidableEq, Repr

/-- The machine. The registers are exactly R22's. `params` are the instance's build-time parameters, which no
command writes (log entry 1). `ports` and `schedule` are the outside world's side of the interface, not registers:
what the input ports carry in this command step, and what they will carry in the steps after it (log entry 4). -/
structure State where
  /-- `TRACK_KIND`, `MAG_W`, `FRAC_W` (R9 to R11). -/
  params      : Params
  /-- 1 once an INIT has run since reset (R23). -/
  bound       : Bool
  /-- The sticky fault flag (R24). -/
  faultQ      : Bool
  /-- Why the block faulted (R24). -/
  faultReason : FaultReason
  /-- The bound envelope table (R31, R42). -/
  T           : Table
  /-- The bound `loop_index`, raw (R25). -/
  L           : Index
  /-- The effective end (R25). -/
  E           : Index
  /-- The current step, or `E` when parked (R26). -/
  cursor      : Index
  /-- `base_value` (R27). -/
  base        : Int
  /-- `delta_value` (R28). -/
  delta       : Int
  /-- The `smoothed` flag of the last classified step (R29). -/
  smooth      : Bool
  /-- The last EVAL result (R30). -/
  valueQ      : Int
  /-- The termination report of the last command (R33). -/
  termQ       : Bool
  /-- The release request of the last command (R34). -/
  rreqQ       : Bool
  /-- What the input ports carry in this command step (R20). -/
  ports       : Ports
  /-- What the driver puts on them in the following steps, first the next one. -/
  schedule    : List Ports
deriving DecidableEq, Repr

/-- Why a step can stop. -/
inductive Fault where
  /-- A read of the step space at an index it does not have: 32 or more (R40, R43). Raised by ADVANCE's table
  read only, and only in a state whose `E` exceeds 32, which no reset or command leaves. Safe: the model stops. -/
  | noSuchStep (index : Nat)
deriving DecidableEq, Repr

/-- Why a command can have no meaning. -/
inductive Refusal where
  /-- An instruction without a meaning. No arm of `exec` raises it. Safe: the model stops. -/
  | notModelled (mnemonic : String)
deriving DecidableEq, Repr

/-- The output ports (R21). -/
structure Outputs where
  valueO    : Int
  cursorO   : Index
  finishedO : Bool
  termO     : Bool
  rreqO     : Bool
  smoothedO : Bool
  faultO    : Bool
deriving DecidableEq, Repr

/-- The reset state of the instance `p` (R107). `bound`, `fault_q`, `fault_reason`, `term_q` and `rreq_q` are the
spec's. DESIGN CHOICE (log entry 3): `T`, `L`, `cursor`, `base`, `delta`, `smooth` and `value_q`, which R107 leaves
unspecified, are 0, and `E`, which R22 keeps in 1..32, is 32. The ports carry nothing yet (log entry 4). -/
def State.resetOf (p : Params) : State :=
  { params := p
    bound := false, faultQ := false, faultReason := .none
    T := Table.zero, L := 0#6, E := 32#6, cursor := 0#6
    base := 0, delta := 0, smooth := false, valueQ := 0
    termQ := false, rreqQ := false
    ports := Ports.idle, schedule := [] }

/-- The machine right after reset, for the instance of log entry 2. -/
def State.reset : State := State.resetOf Config.resetBuild

end Sys2Proof.Machine
end

