-- ==== Sys2Proof/Machine/Flags.lean ====
section
/-! DEFINITION. The block's flags: the two event pulses, `finished`, the loop test, the release request (10_state.md
section 3, 40_sequencing.md R69, R79, R84). -/

namespace Sys2Proof.Machine

/-- Writes `term_q` and `rreq_q` (R33, R34, R84). -/
def State.setPulses (term rreq : Bool) (s : State) : State := { s with termQ := term, rreqQ := rreq }

/-- `finished = (bound = 1) ∧ (cursor = E)` (R32). -/
def State.finished (s : State) : Bool := s.bound && s.cursor == s.E

/-- `loops = zext_6(L) < E` (R69). -/
def State.loops (s : State) : Bool := decide (s.L.toNat < s.E.toNat)

/-- The release request of a parking ADVANCE: `TRACK_KIND = AMP` and `released_i = 0` (R79). -/
def releaseRequest (kind : TrackKind) (released : Bool) : Bool := kind == .amp && !released

end Sys2Proof.Machine
end

