-- ==== Sys2Proof/Machine/Operands.lean ====
section
/-! DEFINITION. What the commands compute from their operands: the effective end, the held value, the ramp of an
entry, the interpolated value, and the entry an ADVANCE moves to. -/

namespace Sys2Proof.Machine

/-- `normEnd(e)`: the effective end, 1..32 (R68). -/
def normEnd (e : Index) : Index := if e.toNat = 0 ∨ 32 ≤ e.toNat then 32#6 else e

/-- `held = base + delta` (R70). -/
def State.held (s : State) : Int := s.base + s.delta

/-- The `(base, delta)` that classifying an entry gives, from the value held before it (R71, R72). -/
def ramp (kind : TrackKind) (e : Entry) (held : Int) : Int × Int :=
  match e.eff with
  | .attack => (0, e.mag)
  | .decay => (e.mag, -e.mag)
  | .slide => (held, e.mag - held)
  | .step =>
    match kind with
    | .pitch => (e.mag, 0)
    | .amp => (held, 0)

/-- `floor(a / 2^k)` (R14): `Int` division by a positive number rounds toward minus infinity. -/
def floorShift (a : Int) (k : Nat) : Int := a / 2 ^ k

/-- `base + floor((delta * f) / 2^FRAC_W)` (R85, R86). -/
def interpolate (p : Params) (base delta : Int) (f : Nat) : Int := base + floorShift (delta * f) p.fracW

/-- Where an ADVANCE of a playing track goes: to a step, or to the parked position (R77). -/
inductive Move where
  | enter (index : Nat)
  | park
deriving DecidableEq, Repr

/-- The next position of a playing track: the following step, the loop target, or the end (R77, R78, R79). -/
def State.nextMove (s : State) : Move :=
  if s.cursor.toNat + 1 < s.E.toNat then .enter (s.cursor.toNat + 1)
  else if s.loops then .enter s.L.toNat
  else .park

end Sys2Proof.Machine
end

