-- ==== Sys2Proof/Machine/Ops.lean ====
section
/-! DEFINITION. The shared operations: reading and binding the table, classifying an entry, raising the fault, the
guards every command starts with, reset, the ports' next values, fetching the command, the output ports. -/

namespace Sys2Proof.Machine

/-- The table holds words of `MAG_W + 3` bits, so equal contents are equal data (R41; log entry 7). -/
abbrev Memory.wf (p : Params) (t : Table) : Prop := t.wf p = true

/-- `MemRead(i, 1) = T[i]`; the step space has the indices 0..31 and no other (R15, R40, R42). -/
def Memory.read (t : Table) (i : Nat) : Option Nat := if h : i < 32 then some t[i] else none

/-- INIT's binding: the table, the raw `loop_index` and the effective end (R42, R75). -/
def State.bind (table : Table) (loopIdx endIdx : Index) (s : State) : State :=
  { s with T := table, L := loopIdx, E := normEnd endIdx, bound := true }

/-- `classify(entry, held)`: writes exactly `base`, `delta` and `smooth` (R71, R72, R73). -/
def State.classify (w : Nat) (held : Int) (s : State) : State :=
  let e := decodeEntry s.params w
  { s with base := (ramp s.params.kind e held).1, delta := (ramp s.params.kind e held).2, smooth := e.sm }

/-- `cursor <- i` (R15). -/
def State.setCursor (i : Index) (s : State) : State := { s with cursor := i }

/-- `value_q <- v` (R85). -/
def State.setValue (v : Int) (s : State) : State := { s with valueQ := v }

/-- Parking: the cursor at `E`, the value frozen at the held value (R79). -/
def State.park (s : State) : State := { s with cursor := s.E, base := s.held, delta := 0 }

/-- `raise Fault(UNBOUND)` by the command with code `cmd`: sets `fault_q`, records the reason and the code, writes no
other register (R92). The block goes on, frozen (R67): this is a next state, not a stop. -/
def State.raiseUnbound (cmd : CmdCode) (s : State) : State :=
  { s with faultQ := true, faultReason := .unbound cmd }

/-- The guard of every command: a faulted block ignores it (R67). -/
def unlessFaulted (s : State) (body : Host.Outcome State Fault Refusal) : Host.Outcome State Fault Refusal :=
  if s.faultQ then .next s else body

/-- The second guard, of ADVANCE and EVAL: an unbound block faults (R93, R95). -/
def requireBound (cmd : CmdCode) (s : State) (body : Host.Outcome State Fault Refusal) :
    Host.Outcome State Fault Refusal :=
  if s.bound then body else .next (s.raiseUnbound cmd)

/-- Moves the cursor to step `i` and classifies `T[i]` with the value held before the command (R77, R78, R16). -/
def enterStep (i : Nat) (s : State) : Host.Outcome State Fault Refusal :=
  match Memory.read s.T i with
  | some w => .next (((s.setCursor (BitVec.ofNat 6 i)).classify w s.held).setPulses false false)
  | none => .fault (.noSuchStep i)

/-- The reset state of the instance, whatever the registers hold (R106, R107); the ports are not registers. -/
def State.applyReset (s : State) : State :=
  { State.resetOf s.params with ports := s.ports, schedule := s.schedule }

/-- The ports take their next values. DESIGN CHOICE (log entry 4): past the schedule's end the driver idles. -/
def State.presentNext (s : State) : State :=
  match s.schedule with
  | [] => { s with ports := Ports.idle }
  | q :: qs => { s with ports := q, schedule := qs }

/-- The command that the ports carry in this step. -/
def State.fetch (s : State) : Instr := decode s.params s.ports

/-- Goes on from a next state, and stops where the first part stopped. -/
def andThen {α β : Type} (r : Host.Outcome α Fault Refusal) (k : α → Host.Outcome β Fault Refusal) :
    Host.Outcome β Fault Refusal :=
  match r with
  | .next a => k a
  | .fault f => .fault f
  | .refused f => .refused f

/-- The output ports, driven from the registers (R21, R35). -/
def State.outputs (s : State) : Outputs :=
  { valueO := s.valueQ, cursorO := s.cursor, finishedO := s.finished, termO := s.termQ, rreqO := s.rreqQ
    smoothedO := s.smooth, faultO := s.faultQ }

end Sys2Proof.Machine
end

