-- ==== Sys2Proof/Machine/Evaluate.lean ====
section
/-! DEFINITION. EVAL (41_evaluate.md). -/

namespace Sys2Proof.Machine

/-- EVAL interpolates the current step at the fraction `f / 2^FRAC_W` (R85 to R87). -/
def execEval (frac : Nat) (s : State) : Host.Outcome State Fault Refusal :=
  unlessFaulted s <| requireBound 0b11#2 s <|
    .next ((s.setValue (interpolate s.params s.base s.delta frac)).setPulses false false)

end Sys2Proof.Machine
end

