-- ==== Sys2Proof/Machine/Sequencing.lean ====
section
/-! DEFINITION. NOP, INIT and ADVANCE (40_sequencing.md). -/

namespace Sys2Proof.Machine

/-- NOP clears the two pulses (R74). -/
def execNop (s : State) : Host.Outcome State Fault Refusal :=
  unlessFaulted s (.next (s.setPulses false false))

/-- INIT binds the envelope and classifies step 0 with the held value 0 (R75, R76). -/
def execInit (table : Table) (loopIdx endIdx : Index) (s : State) : Host.Outcome State Fault Refusal :=
  unlessFaulted s
    (.next ((((s.bind table loopIdx endIdx).setCursor 0#6).classify table[0] 0).setPulses false false))

/-- ADVANCE moves a playing track to its next step, its loop target or the parked position, and leaves a parked
track parked (R77 to R81). -/
def execAdvance (released : Bool) (s : State) : Host.Outcome State Fault Refusal :=
  unlessFaulted s <| requireBound 0b10#2 s <|
    if s.cursor = s.E then .next (s.setPulses false false)
    else
      match s.nextMove with
      | .enter i => enterStep i s
      | .park => .next (s.park.setPulses true (releaseRequest s.params.kind released))

end Sys2Proof.Machine
end

