-- ==== Sys2Proof/Machine/Dispatch.lean ====
section
/-! DEFINITION. One arm per command of spec/opcode_table.json. -/

namespace Sys2Proof.Machine

def exec (i : Instr) (s : State) : Host.Outcome State Fault Refusal :=
  match i with
  | .nop => Sys2Proof.Machine.execNop s
  | .init table loopIdx endIdx => Sys2Proof.Machine.execInit table loopIdx endIdx s
  | .advance released => Sys2Proof.Machine.execAdvance released s
  | .eval frac => Sys2Proof.Machine.execEval frac s

end Sys2Proof.Machine
end

