-- ==== Sys2Proof/Machine/Step.lean ====
section
/-! DEFINITION. One command step (R7, R106), and the word the next step fetches. -/

namespace Sys2Proof.Machine

/-- One command step: with `rst = 1` the block takes its reset state and ignores `cmd_i` (R106); else it runs the one
command on the ports (R7). Then the ports take their next values. -/
def step (s : State) : Host.Outcome State Fault Refusal :=
  andThen (if s.ports.rst then .next s.applyReset else exec s.fetch s) fun t => .next t.presentNext

/-- The ports carry the command word `w` in the coming step, with `rst = 0` and every operand port at 0 (log entry 5). -/
def State.withFetchWord (s : State) (_nbits w : Nat) : State := { s with ports := portsOfWord w }

end Sys2Proof.Machine
end

