-- ==== Sys2Proof/Machine/Driver.lean ====
section
/-! DEFINITION. The driver's side of the block's boundary (70_reset_and_hazards.md R111 to R120, 60_exceptions.md R103): the
command sequences each voice event sends to the voice's two instances, and what the driver reads back. None of it
is state of the block (R39); it stands beside `State`, and every command it sends is one `step` (log entry 9). -/

namespace Sys2Proof.Machine

/-- An envelope as INIT takes it: 32 entry words and the descriptor (R110). -/
structure Envelope where
  table     : Table
  loopIndex : Index
  endIndex  : Index
deriving DecidableEq, Repr

/-- The INIT command that binds an envelope. -/
def Envelope.init (e : Envelope) : Instr := .init e.table e.loopIndex e.endIndex

/-- One voice: its `AMP` and `PITCH` instances (R103), its release flag, and what counts its control ticks (R116). -/
structure Voice where
  amp      : State
  pitch    : State
  released : Bool
  /-- The patch's `step`, as the patch gives it. -/
  stepMul  : Nat
  /-- Control ticks since the last trigger. -/
  ticks    : Nat
deriving DecidableEq, Repr

/-- The voice events that reach the block (R112). -/
inductive VoiceEvent where
  /-- `trigger(patch, key)`: on the glide path or the hard path, with the patch's two envelopes and its `step`. -/
  | trigger (glidePath : Bool) (ampEnv pitchEnv : Envelope) (stepMul : Nat)
  /-- `release()`. -/
  | release
  /-- A control tick, `advance_control()`. -/
  | controlTick
  /-- A sample: the fraction the driver evaluates the `AMP` instance at, if it does (`AMP_TARGET_FRAC` is OPEN, R118),
  and the one for `PITCH`. -/
  | sample (ampFrac : Option Nat) (pitchFrac : Nat)
deriving DecidableEq, Repr

/-- The driver sends one command to an instance: it puts the command's port values before whatever the ports would have
carried, and the instance takes one command step. -/
def issue (i : Instr) (s : State) : Host.Outcome State Fault Refusal :=
  step { s with ports := encode i, schedule := s.ports :: s.schedule }

/-- A voice of freshly reset instances of the given widths (R103, R111). DESIGN CHOICE (log entry 12): the spec gives no value
to the release flag, the patch's `step` and the tick count before the first trigger; they are false, 1 and 0 here. -/
def Voice.resetOf (magW fracW : Nat) : Voice :=
  { amp := State.resetOf { kind := .amp, magW := magW, fracW := fracW }
    pitch := State.resetOf { kind := .pitch, magW := magW, fracW := fracW }
    released := false, stepMul := 1, ticks := 0 }

/-- Whether a trigger issues INIT: always on the hard path (R113), and on the first trigger, which has no prior note
(R111); on the glide path only with `GLIDE_PATH_REINIT` (R114). -/
def Voice.reloads (d : DriverParams) (glidePath : Bool) (v : Voice) : Bool :=
  !glidePath || d.glidePathReinit || !v.amp.bound

/-- Whether the `n`-th control tick since the trigger issues the two ADVANCEs: every one, or with
`STEP_SCALES_ADVANCE` every `step`-th, `step` clamped to at least 1 (R116). -/
def advanceDue (d : DriverParams) (stepMul n : Nat) : Bool :=
  !d.stepScalesAdvance || n % max 1 stepMul == 0

/-- A trigger (R113, R114): the release flag is cleared on either path. -/
def Voice.trigger (d : DriverParams) (glidePath : Bool) (ampEnv pitchEnv : Envelope) (stepMul : Nat) (v : Voice) :
    Host.Outcome Voice Fault Refusal :=
  let v := { v with released := false, stepMul := stepMul, ticks := 0 }
  if v.reloads d glidePath then
    andThen (issue ampEnv.init v.amp) fun a =>
    andThen (issue pitchEnv.init v.pitch) fun p =>
    .next { v with amp := a, pitch := p }
  else .next v

/-- A control tick (R116, R117): ADVANCE to `AMP` with the voice's flag, ADVANCE to `PITCH`, and the automatic release when
the `AMP` instance requests it (R119), which the next tick's ADVANCE is the first to see. -/
def Voice.controlTick (d : DriverParams) (v : Voice) : Host.Outcome Voice Fault Refusal :=
  let n := v.ticks + 1
  if advanceDue d v.stepMul n then
    andThen (issue (.advance v.released) v.amp) fun a =>
    andThen (issue (.advance v.released) v.pitch) fun p =>
    .next { v with amp := a, pitch := p, ticks := n, released := v.released || a.outputs.rreqO }
  else .next { v with ticks := n }

/-- A sample (R118): EVAL to the `AMP` instance if the driver needs it, and to `PITCH`. -/
def Voice.sample (ampFrac : Option Nat) (pitchFrac : Nat) (v : Voice) : Host.Outcome Voice Fault Refusal :=
  andThen (match ampFrac with | some f => issue (.eval f) v.amp | none => .next v.amp) fun a =>
  andThen (issue (.eval pitchFrac) v.pitch) fun p =>
  .next { v with amp := a, pitch := p }

/-- One voice event (R112). `release()` sets the flag and commands neither instance (R115). DESIGN CHOICE (log entry 12): a control
tick or a sample before the first trigger breaks the driver's duty (R111, R123) and has no move in the spec; here its
commands are sent, and the unbound instances fault (R93). -/
def Voice.handle (d : DriverParams) (v : Voice) : VoiceEvent → Host.Outcome Voice Fault Refusal
  | .trigger glidePath ampEnv pitchEnv stepMul => v.trigger d glidePath ampEnv pitchEnv stepMul
  | .release => .next { v with released := true }
  | .controlTick => v.controlTick d
  | .sample ampFrac pitchFrac => v.sample ampFrac pitchFrac

/-- Voice events one after another. -/
def Voice.handleAll (d : DriverParams) : List VoiceEvent → Voice → Host.Outcome Voice Fault Refusal
  | [], v => .next v
  | e :: es, v => andThen (v.handle d e) (Voice.handleAll d es)

/-- The voice states the block's outputs show (R112); `SILENT` is a volume the block does not see. -/
inductive VoicePhase where
  | idle
  | active
  | releasing
  /-- Bound, finished and not released: what a glide trigger that issues no INIT makes of a parked `AMP` instance. R112
  names no state for it (log entry 9). -/
  | ended
deriving DecidableEq, Repr

/-- The voice's state as R108 and R112 map it onto the `AMP` instance. DESIGN CHOICE (log entry 12): of a voice released before its
first trigger R108 says IDLE (unbound) and R112 says RELEASING (an explicit release); it is idle here. -/
def Voice.phase (v : Voice) : VoicePhase :=
  if !v.amp.bound then .idle
  else if v.released then .releasing
  else if v.amp.finished then .ended
  else .active

/-- The block's part of the tail clamp: termination reported while already released (R120). -/
def Voice.tailClampReported (v : Voice) : Bool := v.amp.outputs.termO && !v.amp.outputs.rreqO

/-- The registry of voices, one per output channel (R103). Its length is the open `N_CHANNELS`. -/
abbrev Registry := List Voice

/-- A registry of `n` reset voices. -/
def Registry.resetOf (magW fracW n : Nat) : Registry := List.replicate n (Voice.resetOf magW fracW)

/-- A voice event on channel `c`; the other channels' voices take no step (R103). -/
def Registry.handle (d : DriverParams) (r : Registry) (c : Fin r.length) (e : VoiceEvent) :
    Host.Outcome Registry Fault Refusal :=
  andThen ((r.get c).handle d e) fun v => .next (r.set c v)

end Sys2Proof.Machine
end

