-- ==== Sys2Proof/Safety.lean ====
section
/-! DEFINITION. The terms the claims are stated in: the invariant of the block, runs of commands, and what counts as
a safe run (10_state.md R37, 92_eei_decisions.md D34). -/

namespace Sys2Proof.Machine

/-- An integer in `[MAG_MIN, MAG_MAX]`. -/
abbrev inMagRange (p : Params) (v : Int) : Prop := p.magMin ≤ v ∧ v ≤ p.magMax

/-- R37 (a), (b), (c): the ramp's ends are magnitudes, and `delta` fits `MAG_W + 1` bits. -/
structure State.RampInRange (s : State) : Prop where
  base  : inMagRange s.params s.base
  held  : inMagRange s.params (s.base + s.delta)
  delta : s.params.magMin - s.params.magMax ≤ s.delta ∧ s.delta ≤ s.params.magMax - s.params.magMin

/-- R37 (d): `0 ≤ cursor ≤ E` and `1 ≤ E ≤ 32`. -/
structure State.CursorInRange (s : State) : Prop where
  cursor : s.cursor.toNat ≤ s.E.toNat
  endPos : 1 ≤ s.E.toNat
  endMax : s.E.toNat ≤ 32

/-- R24: `fault_reason` is `NONE` while `fault_q = 0`; it names ADVANCE or EVAL else (R93), and a faulted block is unbound,
since only an unbound one faults and a faulted one ignores INIT. -/
structure State.FaultConsistent (s : State) : Prop where
  clear   : s.faultQ = false → s.faultReason = .none
  reason  : s.faultQ = true → s.faultReason = .unbound 0b10#2 ∨ s.faultReason = .unbound 0b11#2
  unbound : s.faultQ = true → s.bound = false

/-- R33, R34, R79: the termination report stands on a finished track, the release request only beside it and only on an
`AMP` instance. -/
structure State.PulsesConsistent (s : State) : Prop where
  report  : s.termQ = true → s.finished = true
  request : s.rreqQ = true → s.termQ = true ∧ s.params.kind = .amp

/-- The invariant of the block: R37's ranges, the table's word widths, and the consistency of faults, pulses and the
frozen value of a parked track (R79). -/
structure State.Inv (s : State) : Prop where
  params : s.params.wf = true
  table  : Memory.wf s.params s.T
  ramp   : s.bound = true → s.RampInRange
  cursor : s.bound = true → s.CursorInRange
  value  : inMagRange s.params s.valueQ
  fault  : s.FaultConsistent
  pulses : s.PulsesConsistent
  frozen : s.finished = true → s.delta = 0

/-- The rule that gives `(base, delta)` for an entry and the value held before it, effect by effect (R71, R72). -/
structure RampRule (kind : TrackKind) (e : Entry) (held base delta : Int) : Prop where
  attack    : e.eff = .attack → base = 0 ∧ delta = e.mag
  decay     : e.eff = .decay → base = e.mag ∧ delta = -e.mag
  slide     : e.eff = .slide → base = held ∧ delta = e.mag - held
  stepPitch : e.eff = .step → kind = .pitch → base = e.mag ∧ delta = 0
  stepAmp   : e.eff = .step → kind = .amp → base = held ∧ delta = 0

/-- The commands that find their registers: all on a bound block, NOP and INIT on an unbound one (R93). -/
def runsUnbound : Instr → Bool
  | .nop => true
  | .init _ _ _ => true
  | .advance _ => false
  | .eval _ => false

/-- An ADVANCE of this state parks: a bound, unfaulted, playing track on its last step, with no loop (R79). -/
structure State.ParksNext (s : State) : Prop where
  live    : s.faultQ = false
  bound   : s.bound = true
  playing : s.cursor ≠ s.E
  last    : s.E.toNat ≤ s.cursor.toNat + 1
  noLoop  : s.E.toNat ≤ s.L.toNat

/-- Commands one after another, each run by `exec`. -/
def execAll : List Instr → State → Host.Outcome State Fault Refusal
  | [], s => .next s
  | i :: is, s => andThen (exec i s) (execAll is)

/-- The entry word a command classifies in a state, if it classifies one (R43). -/
def classifiedWord : Instr → State → Option Nat
  | .init table _ _, _ => some table[0]
  | .advance _, s =>
    if s.bound && !s.finished then
      match s.nextMove with
      | .enter i => Memory.read s.T i
      | .park => none
    else none
  | .nop, _ => none
  | .eval _, _ => none

/-- The coming `rst` values are all 0: no step resets the block. -/
structure State.NoReset (s : State) : Prop where
  now   : s.ports.rst = false
  later : ∀ q ∈ s.schedule, q.rst = false

/-- The invariant of a voice: both instances in theirs, each of its own kind (R9, R103). -/
structure Voice.Inv (v : Voice) : Prop where
  amp       : v.amp.Inv
  pitch     : v.pitch.Inv
  ampKind   : v.amp.params.kind = .amp
  pitchKind : v.pitch.params.kind = .pitch

/-- A safe run of `k` steps: it stops nowhere and ends unfaulted (D34: a faulted state is never a successful end). -/
def SafeRun (k : Nat) (s : State) : Prop := ∃ t, Host.Core.run core k s = .next t ∧ t.faultQ = false

end Sys2Proof.Machine
end

