-- ==== Sys2Proof/Certificates/Slice0/Obligations.lean ====
section
/-! DEFINITION. The statements for the provers. "The spec's decision D<n>" names a row of 92_eei_decisions.md: a choice
the spec marks as its own. -/

open Sys2Proof Sys2Proof.Machine

/-! ### Encodings (30_encoding.md) -/

/-- The command words of R54's table, as the opcode table numbers them (the spec's decision D5). -/
def Obligations.CommandWordsDecode : Prop :=
  decodeTableWord 8 0b00 = some .nop ∧ decodeTableWord 8 0b01 = some (.init Table.zero 0#6 0#6) ∧
    decodeTableWord 8 0b10 = some (.advance false) ∧ decodeTableWord 8 0b11 = some (.eval 0)

/-- Entry words of 95_test_vectors.md, at its widths (the spec's decisions D3, D4). -/
def Obligations.EntryWordsDecode : Prop :=
  decodeEntry ⟨.amp, 6, 8⟩ 0x0F9 = ⟨31, .attack, false⟩ ∧ decodeEntry ⟨.amp, 6, 8⟩ 0x102 = ⟨-32, .decay, false⟩ ∧
    decodeEntry ⟨.amp, 6, 8⟩ 0x1B3 = ⟨-10, .slide, false⟩ ∧ decodeEntry ⟨.amp, 6, 8⟩ 0x1B0 = ⟨-10, .step, false⟩ ∧
    decodeEntry ⟨.amp, 6, 8⟩ 0x02D = ⟨5, .attack, true⟩

/-- The command code picks the command, and the command takes the ports R55 names for it (the spec's decision D5).
The low bits of a port value wider than its port are taken (log entry 6). -/
def Obligations.DecodePicksCommandByCode : Prop :=
  ∀ (p : Params) (q : Ports),
    (q.cmd = 0b00#2 → decode p q = .nop) ∧
    (q.cmd = 0b01#2 → ∃ t : Table, decode p q = .init t q.loopI q.endI ∧
      ∀ (k : Nat) (h : k < 32), t[k] = q.tableI[k] % 2 ^ (p.magW + 3)) ∧
    (q.cmd = 0b10#2 → decode p q = .advance q.releasedI) ∧
    (q.cmd = 0b11#2 → decode p q = .eval (q.fracI % 2 ^ p.fracW))

/-- R56 to R59: the effect code in bits 1..0, `smoothed` in bit 2, the magnitude in the bits above, two's complement, in
`[MAG_MIN, MAG_MAX]` (the spec's decisions D3, D4). -/
def Obligations.EntryFieldsAsLaidOut : Prop :=
  ∀ (p : Params) (w : Nat), p.wf = true →
    (w % 4 = 0 → (decodeEntry p w).eff = .step) ∧ (w % 4 = 1 → (decodeEntry p w).eff = .attack) ∧
    (w % 4 = 2 → (decodeEntry p w).eff = .decay) ∧ (w % 4 = 3 → (decodeEntry p w).eff = .slide) ∧
    ((decodeEntry p w).sm = true ↔ w / 4 % 2 = 1) ∧
    (decodeEntry p w).mag % 2 ^ p.magW = (w / 8 % 2 ^ p.magW : Nat) ∧ inMagRange p (decodeEntry p w).mag

/-- Every value on the ports, wider than its port too, decodes to a command whose operands fit the ports. That decoding is total
the spec derives (R62); that a wider value is cut to fit is the model's choice (log entry 6). -/
def Obligations.DecodedCommandFitsPorts : Prop :=
  ∀ (p : Params) (q : Ports), (decode p q).wf p = true

/-- Decoding what the encoder writes gives the command back, for every command and every operand that fits. -/
def Obligations.DecodeOfEncodeIsCommand : Prop :=
  ∀ (p : Params) (i : Instr), i.wf p = true → decode p (encode i) = i

/-- Decoding the ENTRY word of a step in range gives the step back, and the word fits `MAG_W + 3` bits. -/
def Obligations.DecodeOfEncodeIsEntry : Prop :=
  ∀ (p : Params) (e : Entry), p.wf = true → e.wf p = true →
    decodeEntry p (encodeEntry p e) = e ∧ encodeEntry p e < 2 ^ p.entryW

/-- Each ENTRY word has one meaning: encoding what it decodes to gives the word back. -/
def Obligations.EncodeOfDecodeIsEntryWord : Prop :=
  ∀ (p : Params) (w : Nat), p.wf = true → w < 2 ^ p.entryW → encodeEntry p (decodeEntry p w) = w

/-- R55: an ignored port has no effect, whatever value it carries (the spec's decision D5). -/
def Obligations.IgnoredPortsHaveNoEffect : Prop :=
  ∀ (s : State) (q q' : Ports), q.rst = false → q'.rst = false → q.cmd = q'.cmd →
    (q.cmd = 0b01#2 → q.tableI = q'.tableI ∧ q.loopI = q'.loopI ∧ q.endI = q'.endI) →
    (q.cmd = 0b10#2 → q.releasedI = q'.releasedI) → (q.cmd = 0b11#2 → q.fracI = q'.fracI) →
    step { s with ports := q } = step { s with ports := q' }

/-! ### The command step and reset (00_scope.md, 70_reset_and_hazards.md) -/

/-- With `rst = 0` a step is the fetched command's `exec`, then the ports take their next values (R7; the spec's decision
D1; the ports' next values are log entry 4). -/
def Obligations.StepRunsFetchedCommand : Prop :=
  ∀ (s : State), s.ports.rst = false →
    (∀ t, exec (decode s.params s.ports) s = .next t → step s = .next t.presentNext) ∧
    (∀ f, exec (decode s.params s.ports) s = .fault f → step s = .fault f)

/-- R106, R107, R109: with `rst = 1` every step leaves the values R107 gives, whatever the command and the state (the spec's
decision D19). What the registers R107 leaves unspecified hold is log entry 3, not stated here. -/
def Obligations.ResetInputOverridesCommand : Prop :=
  ∀ (s : State), s.ports.rst = true → ∃ t, step s = .next t ∧ t.bound = false ∧ t.faultQ = false ∧
    t.faultReason = .none ∧ t.termQ = false ∧ t.rreqQ = false ∧ t.outputs.finishedO = false ∧
    t.outputs.faultO = false ∧ t.outputs.termO = false ∧ t.outputs.rreqO = false ∧ t.params = s.params

/-- R107's values right after reset, for every instance and for `State.reset` (the spec's decision D19). -/
def Obligations.ResetLeavesSpecifiedValues : Prop :=
  (∀ (p : Params), (State.resetOf p).bound = false ∧ (State.resetOf p).faultQ = false ∧
    (State.resetOf p).faultReason = .none ∧ (State.resetOf p).termQ = false ∧ (State.resetOf p).rreqQ = false ∧
    (State.resetOf p).outputs.finishedO = false) ∧ State.reset = State.resetOf Config.resetBuild

/-- Every instance's reset state meets the invariant. The model's choice: it rests on the values of log entry 3. -/
def Obligations.ResetStateMeetsInvariant : Prop :=
  ∀ (p : Params), p.wf = true → (State.resetOf p).Inv

/-- R108: the reset block is unbound, accepts NOP and INIT without a fault, and no other command. -/
def Obligations.ResetBlockAcceptsNopAndInit : Prop :=
  ∀ (p : Params) (i : Instr), (State.resetOf p).bound = false ∧
    ∃ t, exec i (State.resetOf p) = .next t ∧ (t.faultQ = false ↔ i = .nop ∨ ∃ table l e, i = .init table l e)

/-! ### Each command (40_sequencing.md, 41_evaluate.md) -/

/-- R67: a faulted block changes nothing, whatever the command (the spec's decision D18). -/
def Obligations.FaultedBlockIgnoresCommands : Prop :=
  ∀ (i : Instr) (s : State), s.faultQ = true → exec i s = .next s

/-- R74: NOP clears the two pulses and changes nothing else, bound or not (the spec's decisions D5, D17). -/
def Obligations.NopClearsPulsesOnly : Prop :=
  ∀ (s : State), s.faultQ = false → exec .nop s = .next { s with termQ := false, rreqQ := false }

/-- R75: INIT binds the envelope and classifies its step 0 with the held value 0; every other register keeps its value
(the spec's decisions D13, D14; the ramp's D7, D8). -/
def Obligations.InitLoadsStepZero : Prop :=
  ∀ (s : State) (table : Table) (l e : Index), s.faultQ = false →
    ∃ b d, exec (.init table l e) s = .next { s with
        T := table, L := l, E := normEnd e, cursor := 0#6, base := b, delta := d
        smooth := (decodeEntry s.params table[0]).sm, bound := true, termQ := false, rreqQ := false } ∧
      RampRule s.params.kind (decodeEntry s.params table[0]) 0 b d

/-- R76: INIT discards all previous track state: its result is the one from an unbound block of the same instance, but for
`value_q` (the spec's decision D13). -/
def Obligations.InitForgetsPreviousTrack : Prop :=
  ∀ (s s' : State) (table : Table) (l e : Index), s.FaultConsistent → s'.FaultConsistent →
    s.faultQ = false → s'.faultQ = false → s.params = s'.params →
    ∃ t t', exec (.init table l e) s = .next t ∧ exec (.init table l e) s' = .next t' ∧
      t = { t' with valueQ := s.valueQ, ports := s.ports, schedule := s.schedule }

/-- R68: the effective end of each of the 64 values of `end_i`. -/
def Obligations.EffectiveEndIsNormalised : Prop :=
  ∀ (e : Index), (e.toNat = 0 → (normEnd e).toNat = 32) ∧ (32 ≤ e.toNat → (normEnd e).toNat = 32) ∧
    (1 ≤ e.toNat → e.toNat < 32 → normEnd e = e) ∧ 1 ≤ (normEnd e).toNat ∧ (normEnd e).toNat ≤ 32

/-- R77, the ordinary step: the cursor moves by one and the entry there is classified with the held value; every other register
keeps its value (the spec's decisions D6, D7, D8, D17). -/
def Obligations.AdvanceMovesToNextStep : Prop :=
  ∀ (s : State) (r : Bool), s.faultQ = false → s.bound = true → s.E.toNat ≤ 32 →
    s.cursor.toNat + 1 < s.E.toNat →
    ∃ w b d, Memory.read s.T (s.cursor.toNat + 1) = some w ∧
      exec (.advance r) s = .next { s with
        cursor := s.cursor + 1#6, base := b, delta := d, smooth := (decodeEntry s.params w).sm
        termQ := false, rreqQ := false } ∧
      RampRule s.params.kind (decodeEntry s.params w) (s.base + s.delta) b d

/-- R77, R78: from the last step with the loop enabled, the cursor jumps to `L` and `T[L]` is classified with the held value;
every other register keeps its value (the spec's decisions D6, D9, D17). -/
def Obligations.AdvanceJumpsToLoopTarget : Prop :=
  ∀ (s : State) (r : Bool), s.faultQ = false → s.bound = true → s.E.toNat ≤ 32 →
    s.cursor.toNat + 1 = s.E.toNat → s.L.toNat < s.E.toNat →
    ∃ w b d, Memory.read s.T s.L.toNat = some w ∧
      exec (.advance r) s = .next { s with
        cursor := s.L, base := b, delta := d, smooth := (decodeEntry s.params w).sm
        termQ := false, rreqQ := false } ∧
      RampRule s.params.kind (decodeEntry s.params w) (s.base + s.delta) b d

/-- R77, R79: from the last step with the loop disabled, the cursor parks at `E`, the value freezes at the held value, the
termination is reported, and an `AMP` instance not yet released requests the release; every other register keeps
its value (the spec's decisions D10, D11, D12). -/
def Obligations.AdvanceParksAtEnd : Prop :=
  ∀ (s : State) (r : Bool), s.faultQ = false → s.bound = true →
    s.cursor.toNat + 1 = s.E.toNat → s.E.toNat ≤ s.L.toNat →
    ∃ q, exec (.advance r) s = .next { s with
        cursor := s.E, base := s.base + s.delta, delta := 0, termQ := true, rreqQ := q } ∧
      (q = true ↔ s.params.kind = .amp ∧ r = false)

/-- R80: ADVANCE of a parked track clears the pulses and changes nothing else (the spec's decisions D10, D11). -/
def Obligations.AdvanceLeavesParkedTrack : Prop :=
  ∀ (s : State) (r : Bool), s.faultQ = false → s.bound = true → s.cursor = s.E →
    exec (.advance r) s = .next { s with termQ := false, rreqQ := false }

/-- R81, R92: ADVANCE of an unbound block raises `Fault(UNBOUND, ADVANCE)` and writes no other register (the spec's decision
D18). -/
def Obligations.AdvanceBeforeInitFaults : Prop :=
  ∀ (s : State) (r : Bool), s.faultQ = false → s.bound = false →
    exec (.advance r) s = .next { s with faultQ := true, faultReason := .unbound 0b10#2 }

/-- A command stops only where an ADVANCE would read a step the step space does not have, which needs `E` above 32. R43 says only
that no such read happens; that the model has this stop, and no other, is its reading (log entries 7 and 8). -/
def Obligations.CommandStopsOnlyOutsideStepSpace : Prop :=
  ∀ (i : Instr) (s : State),
    (∀ f, exec i s = .fault f → (∃ r, i = .advance r) ∧ 32 < s.E.toNat ∧ ∃ k, 32 ≤ k ∧ f = .noSuchStep k) ∧
    (∀ f, exec i s ≠ .refused f)

/-- R85: EVAL writes the interpolated value, clears the pulses and changes nothing else (the spec's decisions D15, D16). The
floor is stated by its two bounds. -/
def Obligations.EvalInterpolates : Prop :=
  ∀ (s : State) (f : Nat), s.faultQ = false → s.bound = true →
    ∃ z : Int, exec (.eval f) s = .next { s with valueQ := s.base + z, termQ := false, rreqQ := false } ∧
      z * 2 ^ s.params.fracW ≤ s.delta * f ∧ s.delta * f < (z + 1) * 2 ^ s.params.fracW

/-- R87, R92: EVAL of an unbound block raises `Fault(UNBOUND, EVAL)` and writes no other register (the spec's decision D18). -/
def Obligations.EvalBeforeInitFaults : Prop :=
  ∀ (s : State) (f : Nat), s.faultQ = false → s.bound = false →
    exec (.eval f) s = .next { s with faultQ := true, faultReason := .unbound 0b11#2 }

/-- R86 (a), (b): the values at the least and the greatest fraction (the spec's decision D15). -/
def Obligations.EvalAtTheEndFractions : Prop :=
  ∀ (p : Params) (base delta : Int),
    interpolate p base delta 0 = base ∧
    (0 < delta → delta ≤ 2 ^ p.fracW → interpolate p base delta (2 ^ p.fracW - 1) = base + delta - 1) ∧
    (0 < delta → ∃ c : Int, interpolate p base delta (2 ^ p.fracW - 1) = base + delta - c ∧
      (c - 1) * 2 ^ p.fracW < delta ∧ delta ≤ c * 2 ^ p.fracW) ∧
    (delta ≤ 0 → ∃ c : Int, interpolate p base delta (2 ^ p.fracW - 1) = base + delta + c ∧
      c * 2 ^ p.fracW ≤ -delta ∧ -delta < (c + 1) * 2 ^ p.fracW) ∧
    (delta ≤ 0 → -delta < 2 ^ p.fracW → interpolate p base delta (2 ^ p.fracW - 1) = base + delta)

/-- R86 (c): the value lies between `base` and `base + delta`, and so in the magnitude range (the spec's decision D15). -/
def Obligations.EvalStaysWithinRamp : Prop :=
  ∀ (s t : State) (f : Nat), s.Inv → s.faultQ = false → s.bound = true → f < 2 ^ s.params.fracW →
    exec (.eval f) s = .next t →
    min s.base (s.base + s.delta) ≤ t.valueQ ∧ t.valueQ ≤ max s.base (s.base + s.delta) ∧ inMagRange s.params t.valueQ

/-- R86 (d): the value is monotonic in the fraction (the spec's decision D15). -/
def Obligations.EvalMonotoneInFraction : Prop :=
  ∀ (s t t' : State) (f f' : Nat), s.faultQ = false → s.bound = true → f ≤ f' →
    exec (.eval f) s = .next t → exec (.eval f') s = .next t' →
    (0 ≤ s.delta → t.valueQ ≤ t'.valueQ) ∧ (s.delta ≤ 0 → t'.valueQ ≤ t.valueQ)

/-- R89: EVAL of a parked track gives the frozen value at every fraction (which the spec derives). -/
def Obligations.EvalOfParkedTrackIsFrozen : Prop :=
  ∀ (s : State) (f : Nat), s.Inv → s.faultQ = false → s.finished = true →
    ∃ t, exec (.eval f) s = .next t ∧ t.valueQ = s.base

/-! ### What the commands leave alone (10_state.md) -/

/-- R44 and R42: only INIT changes what the step space reads as, and INIT makes it the new table (the spec's decision D14); every
entry word decodes to a step in range. -/
def Obligations.TableChangesByInitOnly : Prop :=
  (∀ (i : Instr) (s t : State), exec i s = .next t → (∀ table l e, i ≠ .init table l e) →
    ∀ k, Memory.read t.T k = Memory.read s.T k) ∧
  (∀ (s t : State) (table : Table) (l e : Index), s.faultQ = false → exec (.init table l e) s = .next t →
    ∀ k, Memory.read t.T k = Memory.read table k) ∧
  (∀ (p : Params) (w : Nat), p.wf = true → (decodeEntry p w).wf p = true)

/-- R27: `base` is the value at fraction 0, and only INIT and ADVANCE write it. -/
def Obligations.BaseIsValueAtFractionZero : Prop :=
  (∀ (s : State), s.faultQ = false → s.bound = true → ∃ t, exec (.eval 0) s = .next t ∧ t.valueQ = s.base) ∧
  (∀ (i : Instr) (s t : State), exec i s = .next t → t.base ≠ s.base →
    (∃ table l e, i = .init table l e) ∨ ∃ r, i = .advance r)

/-- R36: each register is written only by the commands its rule names (R23 to R34; which the spec derives). -/
def Obligations.RegistersKeepTheirWriters : Prop :=
  ∀ (i : Instr) (s t : State), exec i s = .next t →
    t.params = s.params ∧ t.ports = s.ports ∧ t.schedule = s.schedule ∧
    ((∀ table l e, i ≠ .init table l e) → t.bound = s.bound ∧ t.T = s.T ∧ t.L = s.L ∧ t.E = s.E) ∧
    ((∀ table l e, i ≠ .init table l e) → (∀ r, i ≠ .advance r) →
      t.cursor = s.cursor ∧ t.base = s.base ∧ t.delta = s.delta ∧ t.smooth = s.smooth) ∧
    ((∀ f, i ≠ .eval f) → t.valueQ = s.valueQ) ∧
    (s.bound = true ∨ runsUnbound i = true → t.faultQ = s.faultQ ∧ t.faultReason = s.faultReason)

/-- R84: what each command leaves in the two pulses: a parking ADVANCE sets the report and, on an `AMP` instance not released,
the request; every other command that runs clears both; a faulted block and a command that faults keep them. -/
def Obligations.PulsesByCommand : Prop :=
  ∀ (i : Instr) (s t : State), exec i s = .next t →
    (s.faultQ = true ∨ t.faultQ = true → t.termQ = s.termQ ∧ t.rreqQ = s.rreqQ) ∧
    (s.faultQ = false → t.faultQ = false →
      (t.termQ = true ↔ (∃ r, i = .advance r) ∧ s.ParksNext) ∧
      (t.rreqQ = true ↔ i = .advance false ∧ s.ParksNext ∧ s.params.kind = .amp))

/-- R94: a malformed descriptor, any magnitude, any effect code, any fraction and either release flag never fault: NOP and
INIT run on every unfaulted block, and every command runs on a bound one; none leaves a fault. -/
def Obligations.TheseNeverFault : Prop :=
  ∀ (i : Instr) (s : State), s.faultQ = false → s.E.toNat ≤ 32 → s.bound = true ∨ runsUnbound i = true →
    ∃ t, exec i s = .next t ∧ t.faultQ = false ∧ t.faultReason = s.faultReason

/-- R32: `finished` stays 1 until the next INIT or reset (which the spec derives). -/
def Obligations.FinishedHoldsUntilInit : Prop :=
  ∀ (i : Instr) (s t : State), s.finished = true → (∀ table l e, i ≠ .init table l e) →
    exec i s = .next t → t.finished = true ∧ t.cursor = s.cursor ∧ t.base = s.base ∧ t.delta = s.delta

/-- R29, R38: no rule reads `smooth`: changing it changes nothing but `smooth` afterwards (the spec's decision D20). -/
def Obligations.SmoothFlagHasNoEffect : Prop :=
  ∀ (i : Instr) (s t : State) (b : Bool), exec i s = .next t →
    ∃ b', exec i { s with smooth := b } = .next { t with smooth := b' }

/-- R79, R97: `released_i` matters only to a parking ADVANCE, and there only to the release request (the spec's decision D12). -/
def Obligations.ReleasedFlagMattersOnlyWhenParking : Prop :=
  ∀ (s : State), (¬ s.ParksNext → exec (.advance true) s = exec (.advance false) s) ∧
    (s.ParksNext → ∀ t, exec (.advance false) s = .next t →
      exec (.advance true) s = .next { t with rreqQ := false })

/-- R3: the two kinds share every rule except the STEP effect and the release request on termination, and no command changes
the kind. -/
def Obligations.KindsDifferInStepAndReleaseRequest : Prop :=
  ∀ (i : Instr) (s t : State) (k : TrackKind), exec i s = .next t → t.params.kind = s.params.kind ∧
    ((∀ w, classifiedWord i s = some w → (decodeEntry s.params w).eff ≠ .step) →
      ∃ t', exec i { s with params := { s.params with kind := k } } = .next t' ∧
        t' = { t with params := { t.params with kind := k }, rreqQ := t'.rreqQ } ∧
        (t'.rreqQ ≠ t.rreqQ → s.ParksNext ∧ i = .advance false))

/-- R43, R48: the entries from `E` on are never read: another table that agrees below `E` gives the same result (R43 the spec
derives). -/
def Obligations.EntriesPastEndNeverRead : Prop :=
  ∀ (i : Instr) (s t : State) (T' : Table), s.E.toNat ≤ 32 → (∀ table l e, i ≠ .init table l e) →
    (∀ k, k < s.E.toNat → Memory.read T' k = Memory.read s.T k) → exec i s = .next t →
    exec i { s with T := T' } = .next { t with T := T' }

/-! ### Invariants and runs -/

/-- R37, with the consistency of faults and pulses: every step keeps the invariant, a reset step too. For a reset step it rests
on the values of log entry 3, for a port value wider than its port on the cut of log entry 6, both the model's choice. -/
def Obligations.StepKeepsInvariant : Prop :=
  ∀ (s t : State), s.Inv → step s = .next t → t.Inv

/-- R62, R94, R130: from every state that meets the invariant a run of any length goes on and keeps it, whatever the ports carry.
After a reset step the invariant rests on the values of log entry 3, after a port value wider than its port on the cut of
log entry 6, both the model's choice. -/
def Obligations.RunsFromInvariantNeverStop : Prop :=
  ∀ (s : State) (k : Nat), s.Inv → ∃ t, Host.Core.run core k s = .next t ∧ t.Inv

/-- R91, R94: a bound, unfaulted block that is not reset never faults, whatever commands and operands the ports carry. -/
def Obligations.BoundBlockRunsSafely : Prop :=
  ∀ (s : State) (k : Nat), s.Inv → s.bound = true → s.faultQ = false → s.NoReset → SafeRun k s

/-- R92, R99: a faulted block keeps every register through any number of steps without `rst` (the spec's decisions D18, D34). -/
def Obligations.FaultIsStickyUntilReset : Prop :=
  ∀ (s : State) (k : Nat), s.faultQ = true → s.NoReset →
    ∃ t, Host.Core.run core k s = .next t ∧ t = { s with ports := t.ports, schedule := t.schedule }

/-- R78: while the loop is enabled no number of ADVANCEs terminates the track (which the spec derives). -/
def Obligations.LoopNeverTerminates : Prop :=
  ∀ (s : State) (rs : List Bool), s.Inv → s.faultQ = false → s.bound = true → s.finished = false →
    s.L.toNat < s.E.toNat →
    ∃ t, execAll (rs.map .advance) s = .next t ∧ t.finished = false ∧ t.faultQ = false ∧
      (rs ≠ [] → t.termQ = false ∧ t.rreqQ = false)

/-- R82: from `L` the cursor visits `L, L+1, ..., E-1, L, ...` with period `E - L` (which the spec derives). -/
def Obligations.LoopCursorIsPeriodic : Prop :=
  ∀ (s : State) (rs : List Bool), s.Inv → s.faultQ = false → s.bound = true → s.L.toNat < s.E.toNat →
    s.cursor = s.L →
    ∃ t, execAll (rs.map .advance) s = .next t ∧
      t.cursor.toNat = s.L.toNat + rs.length % (s.E.toNat - s.L.toNat)

/-- R82: from the second pass on, `base` and `delta` repeat with period `E - L`, whatever the entries (which the spec derives).
The state is one that has just reached `L`: its ramp is that of `T[L]` from some held value. -/
def Obligations.LoopRampIsPeriodicFromSecondPass : Prop :=
  ∀ (s t t' : State) (rs rs' : List Bool) (w : Nat) (h : Int), s.Inv → s.faultQ = false → s.bound = true →
    s.L.toNat < s.E.toNat → s.cursor = s.L → Memory.read s.T s.L.toNat = some w →
    RampRule s.params.kind (decodeEntry s.params w) h s.base s.delta →
    s.E.toNat - s.L.toNat ≤ rs.length → rs'.length = rs.length + (s.E.toNat - s.L.toNat) →
    execAll (rs.map .advance) s = .next t → execAll (rs'.map .advance) s = .next t' →
    t'.base = t.base ∧ t'.delta = t.delta ∧ t'.cursor = t.cursor

/-- R83: with the loop disabled the first `E - 1` ADVANCEs after INIT play the steps 1 to `E - 1`, the `E`-th parks and reports,
and an `AMP` instance not released then requests the release; no later one reports again (which the spec derives). -/
def Obligations.TrackTerminatesAtEthAdvance : Prop :=
  ∀ (s : State) (table : Table) (l e : Index) (rs : List Bool), s.faultQ = false →
    (normEnd e).toNat ≤ l.toNat →
    ∃ t, execAll (.init table l e :: rs.map .advance) s = .next t ∧ t.faultQ = false ∧
      (rs.length < (normEnd e).toNat →
        t.cursor.toNat = rs.length ∧ t.finished = false ∧ t.termQ = false ∧ t.rreqQ = false) ∧
      (rs.length = (normEnd e).toNat → t.cursor = normEnd e ∧ t.finished = true ∧ t.termQ = true ∧
        (t.rreqQ = true ↔ s.params.kind = .amp ∧ rs.getLast? = some false)) ∧
      ((normEnd e).toNat < rs.length → t.finished = true ∧ t.termQ = false ∧ t.rreqQ = false)

/-- R21: the output ports show the registers R21 names, and `finished` as R32 says (the spec's decisions D1, D11, D12, D20). -/
def Obligations.OutputPortsShowRegisters : Prop :=
  ∀ (s : State), s.outputs.valueO = s.valueQ ∧ s.outputs.cursorO = s.cursor ∧ s.outputs.termO = s.termQ ∧
    s.outputs.rreqO = s.rreqQ ∧ s.outputs.smoothedO = s.smooth ∧ s.outputs.faultO = s.faultQ ∧
    (s.outputs.finishedO = true ↔ s.bound = true ∧ s.cursor = s.E)

/-! ### The driver at the boundary (70_reset_and_hazards.md section 3) -/

/-- R113: the hard path sends INIT with its own envelope to each instance, and the release flag is cleared on every path, so the
next ADVANCE has `released_i = 0`. That the tick count is then 0 and the new patch's `step` is stored is the model's choice
(log entry 9), not R113's. -/
def Obligations.HardTriggerLoadsBothTracks : Prop :=
  ∀ (d : DriverParams) (v : Voice) (a p : Envelope) (m : Nat),
    (a.table.wf v.amp.params = true → p.table.wf v.pitch.params = true →
      ∃ ta tp, exec (.init a.table a.loopIndex a.endIndex) v.amp = .next ta ∧
        exec (.init p.table p.loopIndex p.endIndex) v.pitch = .next tp ∧
        v.handle d (.trigger false a p m) =
          .next { amp := ta, pitch := tp, released := false, stepMul := m, ticks := 0 }) ∧
    (∀ (g : Bool) (w : Voice), v.handle d (.trigger g a p m) = .next w → w.released = false ∧
      ∀ w', advanceDue d w.stepMul (w.ticks + 1) = true → w.handle d .controlTick = .next w' →
        exec (.advance false) w.amp = .next w'.amp)

/-- R114: on the glide path with `GLIDE_PATH_REINIT` false and a prior note no INIT is issued: both instances keep everything;
with it true the trigger is that of the hard path (the spec's decision D28). That an unbound `AMP` instance marks the first trigger,
and that a glide trigger sets the tick count to 0 and stores the patch's `step`, is the model's choice (log entry 9). -/
def Obligations.GlideTriggerReloadsOnlyByParameter : Prop :=
  ∀ (d : DriverParams) (v : Voice) (a p : Envelope) (m : Nat),
    (d.glidePathReinit = false → v.amp.bound = true →
      v.handle d (.trigger true a p m) = .next { v with released := false, stepMul := m, ticks := 0 }) ∧
    (d.glidePathReinit = true ∨ v.amp.bound = false →
      v.handle d (.trigger true a p m) = v.handle d (.trigger false a p m))

/-- R115: `release()` sets the flag and commands neither instance, a second one changes nothing, and the flag reaches the
`AMP` instance as `released_i` of the next tick's ADVANCE. -/
def Obligations.ReleaseOnlySetsTheFlag : Prop :=
  ∀ (d : DriverParams) (v : Voice), ∃ w, v.handle d .release = .next w ∧ w = { v with released := true } ∧
    w.handle d .release = .next w ∧
    (∀ w', advanceDue d w.stepMul (w.ticks + 1) = true → w.handle d .controlTick = .next w' →
      exec (.advance true) v.amp = .next w'.amp)

/-- R119: when the `AMP` instance requests the release after its ADVANCE, the voice is released and in RELEASING; the `PITCH`
instance's report releases nothing. -/
def Obligations.ReleaseRequestReleasesVoice : Prop :=
  ∀ (d : DriverParams) (v w : Voice), v.Inv → advanceDue d v.stepMul (v.ticks + 1) = true →
    v.handle d .controlTick = .next w →
    (w.amp.outputs.rreqO = true → w.released = true ∧ w.phase = .releasing) ∧
    (w.released = true ↔ v.released = true ∨ w.amp.outputs.rreqO = true)

/-- R116, R117: a control tick sends ADVANCE with the voice's flag to both instances, or to neither when `STEP_SCALES_ADVANCE` is
true and the tick is not a `step`-th one since the trigger (the spec's decision D27). How the tick count numbers the ticks, and
that PITCH's ADVANCE carries the voice's flag too, is the model's choice (log entry 9). -/
def Obligations.ControlTickAdvancesBothTracks : Prop :=
  ∀ (d : DriverParams) (v w : Voice), v.handle d .controlTick = .next w →
    w.ticks = v.ticks + 1 ∧ w.stepMul = v.stepMul ∧
    (d.stepScalesAdvance = false ∨ (v.ticks + 1) % max 1 v.stepMul = 0 →
      exec (.advance v.released) v.amp = .next w.amp ∧ exec (.advance v.released) v.pitch = .next w.pitch) ∧
    (d.stepScalesAdvance = true → (v.ticks + 1) % max 1 v.stepMul ≠ 0 →
      w.amp = v.amp ∧ w.pitch = v.pitch ∧ w.released = v.released)

/-- R112, R118: a sample sends EVAL at the driver's fraction to `PITCH`, and to `AMP` when the driver needs it; it changes
neither flag nor counter (the spec's decision D29). -/
def Obligations.SampleEvaluatesTracks : Prop :=
  ∀ (d : DriverParams) (v w : Voice) (af : Option Nat) (f : Nat), f < 2 ^ v.pitch.params.fracW →
    (∀ g, af = some g → g < 2 ^ v.amp.params.fracW) → v.handle d (.sample af f) = .next w →
    exec (.eval f) v.pitch = .next w.pitch ∧ (af = none → w.amp = v.amp) ∧
    (∀ g, af = some g → exec (.eval g) v.amp = .next w.amp) ∧
    w.released = v.released ∧ w.ticks = v.ticks ∧ w.stepMul = v.stepMul

/-- Every voice event, at any time and with any values, goes through and keeps both instances' invariants. That an event before the
first trigger has a move is the model's choice (log entry 12), as are the driver's model (log entry 9) and the cut of
wider values (log entry 6). -/
def Obligations.VoiceEventsKeepInvariant : Prop :=
  ∀ (d : DriverParams) (v : Voice) (es : List VoiceEvent), v.Inv → ∃ w, Voice.handleAll d es v = .next w ∧ w.Inv

/-- The source's property X1 for every length, envelope and cadence: with the loop disabled the voice releases itself at the
control tick that issues the `E`-th ADVANCE after the trigger, and not before (R83, R116, R119). The driver's model, with its tick
count from the trigger, is the model's choice (log entry 9). -/
def Obligations.VoiceReleasesWhenEnvelopeEnds : Prop :=
  ∀ (d : DriverParams) (v : Voice) (a p : Envelope) (m k : Nat), v.Inv → v.amp.faultQ = false →
    (normEnd a.endIndex).toNat ≤ a.loopIndex.toNat →
    ∃ w, Voice.handleAll d (.trigger false a p m :: List.replicate k .controlTick) v = .next w ∧
      (w.released = true ↔
        (normEnd a.endIndex).toNat * (if d.stepScalesAdvance then max 1 m else 1) ≤ k)

/-- R103: an event on one channel leaves every other channel's voice as it was (the spec's decision D32). -/
def Obligations.ChannelsAreIsolated : Prop :=
  ∀ (d : DriverParams) (r r' : Registry) (c : Fin r.length) (e : VoiceEvent), r.handle d c e = .next r' →
    r'.length = r.length ∧ (∀ k, k ≠ c.val → r'[k]? = r[k]?) ∧
    ∃ v, (r.get c).handle d e = .next v ∧ r'[c.val]? = some v
end

