-- ==== Sys2Proof/Laws/Decode.lean ====
section
/-! SUPPORT. The readers' and encoders' own lemmas: the table port's words, the ranges of `sext` and `toPattern`, and their
inverse laws. -/

namespace Sys2Proof

theorem Params.wf_iff (p : Params) : p.wf = true ↔ 6 ≤ p.magW ∧ 1 ≤ p.fracW := by simp [Params.wf]

theorem Table.wf_iff (p : Params) (t : Table) : t.wf p = true ↔ ∀ w ∈ t.toList, w < 2 ^ p.entryW := by
  simp only [Table.wf, List.all_eq_true, decide_eq_true_eq]

theorem Entry.wf_iff (p : Params) (e : Entry) : e.wf p = true ↔ p.magMin ≤ e.mag ∧ e.mag ≤ p.magMax := by
  simp [Entry.wf]

theorem Instr.wf_eval (p : Params) (f : Nat) : (Instr.eval f).wf p = true ↔ f < 2 ^ p.fracW := by simp [Instr.wf]

@[simp] theorem Table.onPort_toList (p : Params) (t : Table) :
    (t.onPort p).toList = t.toList.map (· % 2 ^ p.entryW) := rfl

@[simp] theorem Table.onPort_getElem (p : Params) (t : Table) (k : Nat) (h : k < 32) :
    (t.onPort p)[k] = t[k] % 2 ^ p.entryW := by
  have h' : k < (t.onPort p).toList.length := by simpa using h
  rw [← Vector.getElem_toList h']
  simp only [Table.onPort_toList, List.getElem_map, Vector.getElem_toList]

/-- The words on a table port fit it. -/
theorem Table.onPort_wf (p : Params) (t : Table) : (t.onPort p).wf p = true := by
  simp [Table.wf, Nat.mod_lt]

/-- Words that fit the port come through it unchanged. -/
theorem Table.onPort_of_wf (p : Params) (t : Table) (h : t.wf p = true) : t.onPort p = t := by
  simp only [Table.wf, List.all_eq_true, decide_eq_true_eq] at h
  apply Vector.ext
  intro k hk
  have hm : t[k] ∈ t.toList := by simp
  rw [Table.onPort_getElem p t k hk, Nat.mod_eq_of_lt (h _ hm)]

theorem two_pow_pred {n : Nat} (h : 1 ≤ n) : 2 ^ n = 2 * 2 ^ (n - 1) := by
  conv_lhs => rw [← Nat.sub_add_cancel h]
  rw [pow_succ, Nat.mul_comm]

/-- `sext` lands in the two's-complement range of its width. -/
theorem sext_range {n v : Nat} (hn : 1 ≤ n) (hv : v < 2 ^ n) :
    -(2 ^ (n - 1) : Int) ≤ sext n v ∧ sext n v ≤ 2 ^ (n - 1) - 1 := by
  have h2 : (2 ^ n : Nat) = 2 * 2 ^ (n - 1) := two_pow_pred hn
  have h2' : (2 ^ n : Int) = 2 * 2 ^ (n - 1) := by exact_mod_cast h2
  have hc : ((2 ^ (n - 1) : Nat) : Int) = 2 ^ (n - 1) := by push_cast; rfl
  unfold sext
  split <;> constructor <;> omega

/-- A pattern fits its width. -/
theorem toPattern_lt (n : Nat) (z : Int) : toPattern n z < 2 ^ n := by
  have hp : (0 : Int) < 2 ^ n := by positivity
  have h1 := Int.emod_nonneg z hp.ne'
  have h2 := Int.emod_lt_of_pos z hp
  have hc : ((2 ^ n : Nat) : Int) = 2 ^ n := by push_cast; rfl
  unfold toPattern
  omega

/-- Reading the pattern of an integer in range gives the integer. -/
theorem sext_toPattern {n : Nat} {z : Int} (hn : 1 ≤ n) (h1 : -(2 ^ (n - 1) : Int) ≤ z)
    (h2 : z ≤ 2 ^ (n - 1) - 1) : sext n (toPattern n z) = z := by
  have hn2 : (2 ^ n : Int) = 2 * 2 ^ (n - 1) := by exact_mod_cast two_pow_pred hn
  have hc : ((2 ^ (n - 1) : Nat) : Int) = 2 ^ (n - 1) := by push_cast; rfl
  have hp : (0 : Int) < 2 ^ (n - 1) := by positivity
  unfold sext toPattern
  rcases lt_or_ge z 0 with h | h
  · have : z % 2 ^ n = z + 2 ^ n := by
      rw [← Int.add_emod_right, Int.emod_eq_of_lt] <;> omega
    rw [this]
    split <;> omega
  · have : z % 2 ^ n = z := Int.emod_eq_of_lt h (by omega)
    rw [this]
    split <;> omega

/-- The pattern of what a pattern reads as is the pattern. -/
theorem toPattern_sext {n v : Nat} (hv : v < 2 ^ n) : toPattern n (sext n v) = v := by
  have hc : ((2 ^ n : Nat) : Int) = 2 ^ n := by push_cast; rfl
  unfold sext toPattern
  split
  · rw [Int.emod_eq_of_lt] <;> omega
  · rw [Int.sub_emod_right, Int.emod_eq_of_lt] <;> omega

@[simp] theorem decodeEffect_effectCode (e : Effect) : decodeEffect (effectCode e) = e := by cases e <;> rfl

theorem effectCode_lt (e : Effect) : effectCode e < 4 := by cases e <;> decide

theorem effectCode_decodeEffect {c : Nat} (h : c < 4) : effectCode (decodeEffect c) = c := by
  interval_cases c <;> rfl

@[simp] theorem encode_rst (i : Instr) : (encode i).rst = false := by cases i <;> rfl

end Sys2Proof
end

