-- ==== Sys2Proof/Laws/State.lean ====
section
/-! SUPPORT. What each update of the state leaves in each field. -/

namespace Sys2Proof.Machine

@[simp] theorem State.setPulses_params (a b : Bool) (s : State) : (s.setPulses a b).params = s.params := rfl
@[simp] theorem State.setPulses_bound (a b : Bool) (s : State) : (s.setPulses a b).bound = s.bound := rfl
@[simp] theorem State.setPulses_faultQ (a b : Bool) (s : State) : (s.setPulses a b).faultQ = s.faultQ := rfl
@[simp] theorem State.setPulses_faultReason (a b : Bool) (s : State) : (s.setPulses a b).faultReason = s.faultReason := rfl
@[simp] theorem State.setPulses_T (a b : Bool) (s : State) : (s.setPulses a b).T = s.T := rfl
@[simp] theorem State.setPulses_L (a b : Bool) (s : State) : (s.setPulses a b).L = s.L := rfl
@[simp] theorem State.setPulses_E (a b : Bool) (s : State) : (s.setPulses a b).E = s.E := rfl
@[simp] theorem State.setPulses_cursor (a b : Bool) (s : State) : (s.setPulses a b).cursor = s.cursor := rfl
@[simp] theorem State.setPulses_base (a b : Bool) (s : State) : (s.setPulses a b).base = s.base := rfl
@[simp] theorem State.setPulses_delta (a b : Bool) (s : State) : (s.setPulses a b).delta = s.delta := rfl
@[simp] theorem State.setPulses_smooth (a b : Bool) (s : State) : (s.setPulses a b).smooth = s.smooth := rfl
@[simp] theorem State.setPulses_valueQ (a b : Bool) (s : State) : (s.setPulses a b).valueQ = s.valueQ := rfl
@[simp] theorem State.setPulses_termQ (a b : Bool) (s : State) : (s.setPulses a b).termQ = a := rfl
@[simp] theorem State.setPulses_rreqQ (a b : Bool) (s : State) : (s.setPulses a b).rreqQ = b := rfl
@[simp] theorem State.setPulses_ports (a b : Bool) (s : State) : (s.setPulses a b).ports = s.ports := rfl
@[simp] theorem State.setPulses_schedule (a b : Bool) (s : State) : (s.setPulses a b).schedule = s.schedule := rfl

@[simp] theorem State.bind_params (t : Table) (l e : Index) (s : State) : (s.bind t l e).params = s.params := rfl
@[simp] theorem State.bind_bound (t : Table) (l e : Index) (s : State) : (s.bind t l e).bound = true := rfl
@[simp] theorem State.bind_faultQ (t : Table) (l e : Index) (s : State) : (s.bind t l e).faultQ = s.faultQ := rfl
@[simp] theorem State.bind_faultReason (t : Table) (l e : Index) (s : State) : (s.bind t l e).faultReason = s.faultReason := rfl
@[simp] theorem State.bind_T (t : Table) (l e : Index) (s : State) : (s.bind t l e).T = t := rfl
@[simp] theorem State.bind_L (t : Table) (l e : Index) (s : State) : (s.bind t l e).L = l := rfl
@[simp] theorem State.bind_E (t : Table) (l e : Index) (s : State) : (s.bind t l e).E = normEnd e := rfl
@[simp] theorem State.bind_cursor (t : Table) (l e : Index) (s : State) : (s.bind t l e).cursor = s.cursor := rfl
@[simp] theorem State.bind_base (t : Table) (l e : Index) (s : State) : (s.bind t l e).base = s.base := rfl
@[simp] theorem State.bind_delta (t : Table) (l e : Index) (s : State) : (s.bind t l e).delta = s.delta := rfl
@[simp] theorem State.bind_smooth (t : Table) (l e : Index) (s : State) : (s.bind t l e).smooth = s.smooth := rfl
@[simp] theorem State.bind_valueQ (t : Table) (l e : Index) (s : State) : (s.bind t l e).valueQ = s.valueQ := rfl
@[simp] theorem State.bind_termQ (t : Table) (l e : Index) (s : State) : (s.bind t l e).termQ = s.termQ := rfl
@[simp] theorem State.bind_rreqQ (t : Table) (l e : Index) (s : State) : (s.bind t l e).rreqQ = s.rreqQ := rfl
@[simp] theorem State.bind_ports (t : Table) (l e : Index) (s : State) : (s.bind t l e).ports = s.ports := rfl
@[simp] theorem State.bind_schedule (t : Table) (l e : Index) (s : State) : (s.bind t l e).schedule = s.schedule := rfl

@[simp] theorem State.setCursor_params (i : Index) (s : State) : (s.setCursor i).params = s.params := rfl
@[simp] theorem State.setCursor_bound (i : Index) (s : State) : (s.setCursor i).bound = s.bound := rfl
@[simp] theorem State.setCursor_faultQ (i : Index) (s : State) : (s.setCursor i).faultQ = s.faultQ := rfl
@[simp] theorem State.setCursor_faultReason (i : Index) (s : State) : (s.setCursor i).faultReason = s.faultReason := rfl
@[simp] theorem State.setCursor_T (i : Index) (s : State) : (s.setCursor i).T = s.T := rfl
@[simp] theorem State.setCursor_L (i : Index) (s : State) : (s.setCursor i).L = s.L := rfl
@[simp] theorem State.setCursor_E (i : Index) (s : State) : (s.setCursor i).E = s.E := rfl
@[simp] theorem State.setCursor_cursor (i : Index) (s : State) : (s.setCursor i).cursor = i := rfl
@[simp] theorem State.setCursor_base (i : Index) (s : State) : (s.setCursor i).base = s.base := rfl
@[simp] theorem State.setCursor_delta (i : Index) (s : State) : (s.setCursor i).delta = s.delta := rfl
@[simp] theorem State.setCursor_smooth (i : Index) (s : State) : (s.setCursor i).smooth = s.smooth := rfl
@[simp] theorem State.setCursor_valueQ (i : Index) (s : State) : (s.setCursor i).valueQ = s.valueQ := rfl
@[simp] theorem State.setCursor_termQ (i : Index) (s : State) : (s.setCursor i).termQ = s.termQ := rfl
@[simp] theorem State.setCursor_rreqQ (i : Index) (s : State) : (s.setCursor i).rreqQ = s.rreqQ := rfl
@[simp] theorem State.setCursor_ports (i : Index) (s : State) : (s.setCursor i).ports = s.ports := rfl
@[simp] theorem State.setCursor_schedule (i : Index) (s : State) : (s.setCursor i).schedule = s.schedule := rfl

@[simp] theorem State.classify_params (w : Nat) (h : Int) (s : State) : (s.classify w h).params = s.params := rfl
@[simp] theorem State.classify_bound (w : Nat) (h : Int) (s : State) : (s.classify w h).bound = s.bound := rfl
@[simp] theorem State.classify_faultQ (w : Nat) (h : Int) (s : State) : (s.classify w h).faultQ = s.faultQ := rfl
@[simp] theorem State.classify_faultReason (w : Nat) (h : Int) (s : State) : (s.classify w h).faultReason = s.faultReason := rfl
@[simp] theorem State.classify_T (w : Nat) (h : Int) (s : State) : (s.classify w h).T = s.T := rfl
@[simp] theorem State.classify_L (w : Nat) (h : Int) (s : State) : (s.classify w h).L = s.L := rfl
@[simp] theorem State.classify_E (w : Nat) (h : Int) (s : State) : (s.classify w h).E = s.E := rfl
@[simp] theorem State.classify_cursor (w : Nat) (h : Int) (s : State) : (s.classify w h).cursor = s.cursor := rfl
@[simp] theorem State.classify_base (w : Nat) (h : Int) (s : State) : (s.classify w h).base = (ramp s.params.kind (decodeEntry s.params w) h).1 := rfl
@[simp] theorem State.classify_delta (w : Nat) (h : Int) (s : State) : (s.classify w h).delta = (ramp s.params.kind (decodeEntry s.params w) h).2 := rfl
@[simp] theorem State.classify_smooth (w : Nat) (h : Int) (s : State) : (s.classify w h).smooth = (decodeEntry s.params w).sm := rfl
@[simp] theorem State.classify_valueQ (w : Nat) (h : Int) (s : State) : (s.classify w h).valueQ = s.valueQ := rfl
@[simp] theorem State.classify_termQ (w : Nat) (h : Int) (s : State) : (s.classify w h).termQ = s.termQ := rfl
@[simp] theorem State.classify_rreqQ (w : Nat) (h : Int) (s : State) : (s.classify w h).rreqQ = s.rreqQ := rfl
@[simp] theorem State.classify_ports (w : Nat) (h : Int) (s : State) : (s.classify w h).ports = s.ports := rfl
@[simp] theorem State.classify_schedule (w : Nat) (h : Int) (s : State) : (s.classify w h).schedule = s.schedule := rfl

@[simp] theorem State.setValue_params (v : Int) (s : State) : (s.setValue v).params = s.params := rfl
@[simp] theorem State.setValue_bound (v : Int) (s : State) : (s.setValue v).bound = s.bound := rfl
@[simp] theorem State.setValue_faultQ (v : Int) (s : State) : (s.setValue v).faultQ = s.faultQ := rfl
@[simp] theorem State.setValue_faultReason (v : Int) (s : State) : (s.setValue v).faultReason = s.faultReason := rfl
@[simp] theorem State.setValue_T (v : Int) (s : State) : (s.setValue v).T = s.T := rfl
@[simp] theorem State.setValue_L (v : Int) (s : State) : (s.setValue v).L = s.L := rfl
@[simp] theorem State.setValue_E (v : Int) (s : State) : (s.setValue v).E = s.E := rfl
@[simp] theorem State.setValue_cursor (v : Int) (s : State) : (s.setValue v).cursor = s.cursor := rfl
@[simp] theorem State.setValue_base (v : Int) (s : State) : (s.setValue v).base = s.base := rfl
@[simp] theorem State.setValue_delta (v : Int) (s : State) : (s.setValue v).delta = s.delta := rfl
@[simp] theorem State.setValue_smooth (v : Int) (s : State) : (s.setValue v).smooth = s.smooth := rfl
@[simp] theorem State.setValue_valueQ (v : Int) (s : State) : (s.setValue v).valueQ = v := rfl
@[simp] theorem State.setValue_termQ (v : Int) (s : State) : (s.setValue v).termQ = s.termQ := rfl
@[simp] theorem State.setValue_rreqQ (v : Int) (s : State) : (s.setValue v).rreqQ = s.rreqQ := rfl
@[simp] theorem State.setValue_ports (v : Int) (s : State) : (s.setValue v).ports = s.ports := rfl
@[simp] theorem State.setValue_schedule (v : Int) (s : State) : (s.setValue v).schedule = s.schedule := rfl

@[simp] theorem State.park_params (s : State) : (s.park).params = s.params := rfl
@[simp] theorem State.park_bound (s : State) : (s.park).bound = s.bound := rfl
@[simp] theorem State.park_faultQ (s : State) : (s.park).faultQ = s.faultQ := rfl
@[simp] theorem State.park_faultReason (s : State) : (s.park).faultReason = s.faultReason := rfl
@[simp] theorem State.park_T (s : State) : (s.park).T = s.T := rfl
@[simp] theorem State.park_L (s : State) : (s.park).L = s.L := rfl
@[simp] theorem State.park_E (s : State) : (s.park).E = s.E := rfl
@[simp] theorem State.park_cursor (s : State) : (s.park).cursor = s.E := rfl
@[simp] theorem State.park_base (s : State) : (s.park).base = s.held := rfl
@[simp] theorem State.park_delta (s : State) : (s.park).delta = 0 := rfl
@[simp] theorem State.park_smooth (s : State) : (s.park).smooth = s.smooth := rfl
@[simp] theorem State.park_valueQ (s : State) : (s.park).valueQ = s.valueQ := rfl
@[simp] theorem State.park_termQ (s : State) : (s.park).termQ = s.termQ := rfl
@[simp] theorem State.park_rreqQ (s : State) : (s.park).rreqQ = s.rreqQ := rfl
@[simp] theorem State.park_ports (s : State) : (s.park).ports = s.ports := rfl
@[simp] theorem State.park_schedule (s : State) : (s.park).schedule = s.schedule := rfl

@[simp] theorem State.raiseUnbound_params (c : CmdCode) (s : State) : (s.raiseUnbound c).params = s.params := rfl
@[simp] theorem State.raiseUnbound_bound (c : CmdCode) (s : State) : (s.raiseUnbound c).bound = s.bound := rfl
@[simp] theorem State.raiseUnbound_faultQ (c : CmdCode) (s : State) : (s.raiseUnbound c).faultQ = true := rfl
@[simp] theorem State.raiseUnbound_faultReason (c : CmdCode) (s : State) : (s.raiseUnbound c).faultReason = .unbound c := rfl
@[simp] theorem State.raiseUnbound_T (c : CmdCode) (s : State) : (s.raiseUnbound c).T = s.T := rfl
@[simp] theorem State.raiseUnbound_L (c : CmdCode) (s : State) : (s.raiseUnbound c).L = s.L := rfl
@[simp] theorem State.raiseUnbound_E (c : CmdCode) (s : State) : (s.raiseUnbound c).E = s.E := rfl
@[simp] theorem State.raiseUnbound_cursor (c : CmdCode) (s : State) : (s.raiseUnbound c).cursor = s.cursor := rfl
@[simp] theorem State.raiseUnbound_base (c : CmdCode) (s : State) : (s.raiseUnbound c).base = s.base := rfl
@[simp] theorem State.raiseUnbound_delta (c : CmdCode) (s : State) : (s.raiseUnbound c).delta = s.delta := rfl
@[simp] theorem State.raiseUnbound_smooth (c : CmdCode) (s : State) : (s.raiseUnbound c).smooth = s.smooth := rfl
@[simp] theorem State.raiseUnbound_valueQ (c : CmdCode) (s : State) : (s.raiseUnbound c).valueQ = s.valueQ := rfl
@[simp] theorem State.raiseUnbound_termQ (c : CmdCode) (s : State) : (s.raiseUnbound c).termQ = s.termQ := rfl
@[simp] theorem State.raiseUnbound_rreqQ (c : CmdCode) (s : State) : (s.raiseUnbound c).rreqQ = s.rreqQ := rfl
@[simp] theorem State.raiseUnbound_ports (c : CmdCode) (s : State) : (s.raiseUnbound c).ports = s.ports := rfl
@[simp] theorem State.raiseUnbound_schedule (c : CmdCode) (s : State) : (s.raiseUnbound c).schedule = s.schedule := rfl

@[simp] theorem State.withFetchWord_params (s : State) (n w : Nat) : (s.withFetchWord n w).params = s.params := rfl
@[simp] theorem State.withFetchWord_bound (s : State) (n w : Nat) : (s.withFetchWord n w).bound = s.bound := rfl
@[simp] theorem State.withFetchWord_faultQ (s : State) (n w : Nat) : (s.withFetchWord n w).faultQ = s.faultQ := rfl
@[simp] theorem State.withFetchWord_faultReason (s : State) (n w : Nat) : (s.withFetchWord n w).faultReason = s.faultReason := rfl
@[simp] theorem State.withFetchWord_T (s : State) (n w : Nat) : (s.withFetchWord n w).T = s.T := rfl
@[simp] theorem State.withFetchWord_L (s : State) (n w : Nat) : (s.withFetchWord n w).L = s.L := rfl
@[simp] theorem State.withFetchWord_E (s : State) (n w : Nat) : (s.withFetchWord n w).E = s.E := rfl
@[simp] theorem State.withFetchWord_cursor (s : State) (n w : Nat) : (s.withFetchWord n w).cursor = s.cursor := rfl
@[simp] theorem State.withFetchWord_base (s : State) (n w : Nat) : (s.withFetchWord n w).base = s.base := rfl
@[simp] theorem State.withFetchWord_delta (s : State) (n w : Nat) : (s.withFetchWord n w).delta = s.delta := rfl
@[simp] theorem State.withFetchWord_smooth (s : State) (n w : Nat) : (s.withFetchWord n w).smooth = s.smooth := rfl
@[simp] theorem State.withFetchWord_valueQ (s : State) (n w : Nat) : (s.withFetchWord n w).valueQ = s.valueQ := rfl
@[simp] theorem State.withFetchWord_termQ (s : State) (n w : Nat) : (s.withFetchWord n w).termQ = s.termQ := rfl
@[simp] theorem State.withFetchWord_rreqQ (s : State) (n w : Nat) : (s.withFetchWord n w).rreqQ = s.rreqQ := rfl
@[simp] theorem State.withFetchWord_ports (s : State) (n w : Nat) : (s.withFetchWord n w).ports = portsOfWord w := rfl
@[simp] theorem State.withFetchWord_schedule (s : State) (n w : Nat) : (s.withFetchWord n w).schedule = s.schedule := rfl

@[simp] theorem State.resetOf_params (p : Params) : (State.resetOf p).params = p := rfl
@[simp] theorem State.resetOf_bound (p : Params) : (State.resetOf p).bound = false := rfl
@[simp] theorem State.resetOf_faultQ (p : Params) : (State.resetOf p).faultQ = false := rfl
@[simp] theorem State.resetOf_faultReason (p : Params) : (State.resetOf p).faultReason = .none := rfl
@[simp] theorem State.resetOf_T (p : Params) : (State.resetOf p).T = Table.zero := rfl
@[simp] theorem State.resetOf_L (p : Params) : (State.resetOf p).L = 0#6 := rfl
@[simp] theorem State.resetOf_E (p : Params) : (State.resetOf p).E = 32#6 := rfl
@[simp] theorem State.resetOf_cursor (p : Params) : (State.resetOf p).cursor = 0#6 := rfl
@[simp] theorem State.resetOf_base (p : Params) : (State.resetOf p).base = 0 := rfl
@[simp] theorem State.resetOf_delta (p : Params) : (State.resetOf p).delta = 0 := rfl
@[simp] theorem State.resetOf_smooth (p : Params) : (State.resetOf p).smooth = false := rfl
@[simp] theorem State.resetOf_valueQ (p : Params) : (State.resetOf p).valueQ = 0 := rfl
@[simp] theorem State.resetOf_termQ (p : Params) : (State.resetOf p).termQ = false := rfl
@[simp] theorem State.resetOf_rreqQ (p : Params) : (State.resetOf p).rreqQ = false := rfl
@[simp] theorem State.resetOf_ports (p : Params) : (State.resetOf p).ports = Ports.idle := rfl
@[simp] theorem State.resetOf_schedule (p : Params) : (State.resetOf p).schedule = [] := rfl

@[simp] theorem State.applyReset_params (s : State) : s.applyReset.params = s.params := rfl
@[simp] theorem State.applyReset_bound (s : State) : s.applyReset.bound = false := rfl
@[simp] theorem State.applyReset_faultQ (s : State) : s.applyReset.faultQ = false := rfl
@[simp] theorem State.applyReset_faultReason (s : State) : s.applyReset.faultReason = .none := rfl
@[simp] theorem State.applyReset_T (s : State) : s.applyReset.T = Table.zero := rfl
@[simp] theorem State.applyReset_L (s : State) : s.applyReset.L = 0#6 := rfl
@[simp] theorem State.applyReset_E (s : State) : s.applyReset.E = 32#6 := rfl
@[simp] theorem State.applyReset_cursor (s : State) : s.applyReset.cursor = 0#6 := rfl
@[simp] theorem State.applyReset_base (s : State) : s.applyReset.base = 0 := rfl
@[simp] theorem State.applyReset_delta (s : State) : s.applyReset.delta = 0 := rfl
@[simp] theorem State.applyReset_smooth (s : State) : s.applyReset.smooth = false := rfl
@[simp] theorem State.applyReset_valueQ (s : State) : s.applyReset.valueQ = 0 := rfl
@[simp] theorem State.applyReset_termQ (s : State) : s.applyReset.termQ = false := rfl
@[simp] theorem State.applyReset_rreqQ (s : State) : s.applyReset.rreqQ = false := rfl
@[simp] theorem State.applyReset_ports (s : State) : s.applyReset.ports = s.ports := rfl
@[simp] theorem State.applyReset_schedule (s : State) : s.applyReset.schedule = s.schedule := rfl

@[simp] theorem State.presentNext_params (s : State) : s.presentNext.params = s.params := by
  unfold State.presentNext; split <;> rfl
@[simp] theorem State.presentNext_bound (s : State) : s.presentNext.bound = s.bound := by
  unfold State.presentNext; split <;> rfl
@[simp] theorem State.presentNext_faultQ (s : State) : s.presentNext.faultQ = s.faultQ := by
  unfold State.presentNext; split <;> rfl
@[simp] theorem State.presentNext_faultReason (s : State) : s.presentNext.faultReason = s.faultReason := by
  unfold State.presentNext; split <;> rfl
@[simp] theorem State.presentNext_T (s : State) : s.presentNext.T = s.T := by
  unfold State.presentNext; split <;> rfl
@[simp] theorem State.presentNext_L (s : State) : s.presentNext.L = s.L := by
  unfold State.presentNext; split <;> rfl
@[simp] theorem State.presentNext_E (s : State) : s.presentNext.E = s.E := by
  unfold State.presentNext; split <;> rfl
@[simp] theorem State.presentNext_cursor (s : State) : s.presentNext.cursor = s.cursor := by
  unfold State.presentNext; split <;> rfl
@[simp] theorem State.presentNext_base (s : State) : s.presentNext.base = s.base := by
  unfold State.presentNext; split <;> rfl
@[simp] theorem State.presentNext_delta (s : State) : s.presentNext.delta = s.delta := by
  unfold State.presentNext; split <;> rfl
@[simp] theorem State.presentNext_smooth (s : State) : s.presentNext.smooth = s.smooth := by
  unfold State.presentNext; split <;> rfl
@[simp] theorem State.presentNext_valueQ (s : State) : s.presentNext.valueQ = s.valueQ := by
  unfold State.presentNext; split <;> rfl
@[simp] theorem State.presentNext_termQ (s : State) : s.presentNext.termQ = s.termQ := by
  unfold State.presentNext; split <;> rfl
@[simp] theorem State.presentNext_rreqQ (s : State) : s.presentNext.rreqQ = s.rreqQ := by
  unfold State.presentNext; split <;> rfl

/-- The ports' next values change the ports and the schedule only. -/
theorem State.presentNext_eq (s : State) :
    s.presentNext = { s with ports := s.presentNext.ports, schedule := s.presentNext.schedule } := by
  unfold State.presentNext; split <;> rfl

@[simp] theorem State.setPulses_finished (a b : Bool) (s : State) : (s.setPulses a b).finished = s.finished := rfl
@[simp] theorem State.setValue_finished (v : Int) (s : State) : (s.setValue v).finished = s.finished := rfl
@[simp] theorem State.raiseUnbound_finished (c : CmdCode) (s : State) : (s.raiseUnbound c).finished = s.finished := rfl
@[simp] theorem State.classify_finished (w : Nat) (h : Int) (s : State) : (s.classify w h).finished = s.finished := rfl
@[simp] theorem State.presentNext_finished (s : State) : s.presentNext.finished = s.finished := by
  simp [State.finished]
@[simp] theorem State.park_finished (s : State) : s.park.finished = s.bound := by simp [State.finished]
@[simp] theorem State.applyReset_finished (s : State) : s.applyReset.finished = false := rfl

end Sys2Proof.Machine
end

