-- ==== Sys2Proof/Laws/Ops.lean ====
section
/-! SUPPORT. One lemma per shared operation, saying all it can do. -/

namespace Sys2Proof.Machine

theorem Memory.read_of_lt (t : Table) {i : Nat} (h : i < 32) : Memory.read t i = some t[i] := by
  simp [Memory.read, h]

theorem Memory.read_of_ge (t : Table) {i : Nat} (h : 32 ≤ i) : Memory.read t i = none := by
  simp [Memory.read, Nat.not_lt.mpr h]

/-- A word read from a table whose words fit fits. -/
theorem Memory.read_wf {p : Params} {t : Table} {i : Nat} {w : Nat} (ht : Memory.wf p t)
    (h : Memory.read t i = some w) : w < 2 ^ p.entryW := by
  simp only [Memory.wf, Table.wf, List.all_eq_true, decide_eq_true_eq] at ht
  unfold Memory.read at h
  split at h
  · cases h; exact ht _ (by simp)
  · cases h

/-- Binding keeps the table's form if the bound table has it. -/
theorem Memory.wf_bind {p : Params} {t : Table} (ht : Memory.wf p t) (l e : Index) (s : State) :
    Memory.wf p (s.bind t l e).T := ht

/-- The reset table has the form, on every instance. -/
theorem Memory.wf_reset (p : Params) : Memory.wf p (State.resetOf p).T := by
  simp [Memory.wf, Table.wf, Table.zero]

theorem unlessFaulted_of_faulted {s : State} (h : s.faultQ = true) (b : Host.Outcome State Fault Refusal) :
    unlessFaulted s b = .next s := by simp [unlessFaulted, h]

theorem unlessFaulted_of_unfaulted {s : State} (h : s.faultQ = false) (b : Host.Outcome State Fault Refusal) :
    unlessFaulted s b = b := by simp [unlessFaulted, h]

theorem requireBound_of_bound {s : State} (h : s.bound = true) (c : CmdCode) (b : Host.Outcome State Fault Refusal) :
    requireBound c s b = b := by simp [requireBound, h]

theorem requireBound_of_unbound {s : State} (h : s.bound = false) (c : CmdCode) (b : Host.Outcome State Fault Refusal) :
    requireBound c s b = .next (s.raiseUnbound c) := by simp [requireBound, h]

theorem enterStep_of_lt {i : Nat} (h : i < 32) (s : State) :
    enterStep i s = .next (((s.setCursor (BitVec.ofNat 6 i)).classify s.T[i] s.held).setPulses false false) := by
  simp [enterStep, Memory.read_of_lt _ h]

theorem enterStep_of_ge {i : Nat} (h : 32 ≤ i) (s : State) : enterStep i s = .fault (.noSuchStep i) := by
  simp [enterStep, Memory.read_of_ge _ h]

/-- Entering a step: what a next state is. -/
theorem enterStep_cases {i : Nat} {s t : State} (h : enterStep i s = .next t) :
    ∃ w, Memory.read s.T i = some w ∧
      t = ((s.setCursor (BitVec.ofNat 6 i)).classify w s.held).setPulses false false := by
  unfold enterStep at h
  split at h
  · next w hw => cases h; exact ⟨w, hw, rfl⟩
  · cases h

/-- Where a playing track goes: the three branches of R77. -/
theorem State.nextMove_cases (s : State) :
    (s.cursor.toNat + 1 < s.E.toNat ∧ s.nextMove = .enter (s.cursor.toNat + 1)) ∨
    (s.E.toNat ≤ s.cursor.toNat + 1 ∧ s.L.toNat < s.E.toNat ∧ s.nextMove = .enter s.L.toNat) ∨
    (s.E.toNat ≤ s.cursor.toNat + 1 ∧ s.E.toNat ≤ s.L.toNat ∧ s.nextMove = .park) := by
  unfold State.nextMove State.loops
  by_cases h1 : s.cursor.toNat + 1 < s.E.toNat
  · exact .inl ⟨h1, by simp [h1]⟩
  · by_cases h2 : s.L.toNat < s.E.toNat
    · exact .inr (.inl ⟨by omega, h2, by simp [h1, h2]⟩)
    · exact .inr (.inr ⟨by omega, by omega, by simp [h1, h2]⟩)

/-- Every next step is below `E`. -/
theorem State.nextMove_lt {s : State} {i : Nat} (h : s.nextMove = .enter i) : i < s.E.toNat := by
  obtain ⟨h1, h2⟩ | ⟨_, h1, h2⟩ | ⟨_, _, h2⟩ := s.nextMove_cases <;> rw [h2] at h <;> cases h <;> assumption

theorem State.finished_iff (s : State) : s.finished = true ↔ s.bound = true ∧ s.cursor = s.E := by
  simp [State.finished]

theorem normEnd_range (e : Index) : 1 ≤ (normEnd e).toNat ∧ (normEnd e).toNat ≤ 32 := by
  unfold normEnd
  split
  · decide
  · omega

/-- The floor's two bounds. -/
theorem floorShift_bounds (a : Int) (k : Nat) :
    floorShift a k * 2 ^ k ≤ a ∧ a < (floorShift a k + 1) * 2 ^ k := by
  have hp : (0 : Int) < 2 ^ k := by positivity
  exact ⟨Int.ediv_mul_le a hp.ne', Int.lt_ediv_add_one_mul_self a hp⟩

theorem andThen_eq_next {α β : Type} {r : Host.Outcome α Fault Refusal} {k : α → Host.Outcome β Fault Refusal} {b : β} :
    andThen r k = .next b ↔ ∃ a, r = .next a ∧ k a = .next b := by
  cases r <;> simp [andThen]

@[simp] theorem andThen_next {α β : Type} (a : α) (k : α → Host.Outcome β Fault Refusal) :
    andThen (.next a) k = k a := rfl

end Sys2Proof.Machine
end

