-- ==== Sys2Proof/Laws/Exec.lean ====
section
/-! SUPPORT. What each command, and each step, can do: the inversion lemmas the invariants go through. -/

namespace Sys2Proof.Machine

theorem exec_of_faulted (i : Instr) {s : State} (h : s.faultQ = true) : exec i s = .next s := by
  cases i <;> exact unlessFaulted_of_faulted h _

theorem execNop_live {s : State} (h : s.faultQ = false) : execNop s = .next (s.setPulses false false) :=
  unlessFaulted_of_unfaulted h _

theorem execInit_live {s : State} (h : s.faultQ = false) (t : Table) (l e : Index) :
    execInit t l e s =
      .next ((((s.bind t l e).setCursor 0#6).classify t[0] 0).setPulses false false) :=
  unlessFaulted_of_unfaulted h _

theorem execEval_live {s : State} (h : s.faultQ = false) (hb : s.bound = true) (f : Nat) :
    execEval f s = .next ((s.setValue (interpolate s.params s.base s.delta f)).setPulses false false) := by
  rw [execEval, unlessFaulted_of_unfaulted h, requireBound_of_bound hb]

theorem execEval_unbound {s : State} (h : s.faultQ = false) (hb : s.bound = false) (f : Nat) :
    execEval f s = .next (s.raiseUnbound 0b11#2) := by
  rw [execEval, unlessFaulted_of_unfaulted h, requireBound_of_unbound hb]

theorem execAdvance_unbound {s : State} (h : s.faultQ = false) (hb : s.bound = false) (r : Bool) :
    execAdvance r s = .next (s.raiseUnbound 0b10#2) := by
  rw [execAdvance, unlessFaulted_of_unfaulted h, requireBound_of_unbound hb]

theorem execAdvance_parked {s : State} (h : s.faultQ = false) (hb : s.bound = true) (hc : s.cursor = s.E) (r : Bool) :
    execAdvance r s = .next (s.setPulses false false) := by
  rw [execAdvance, unlessFaulted_of_unfaulted h, requireBound_of_bound hb, if_pos hc]

/-- ADVANCE of a playing track goes where `nextMove` says. -/
theorem execAdvance_playing {s : State} (h : s.faultQ = false) (hb : s.bound = true) (hc : s.cursor ≠ s.E) (r : Bool) :
    execAdvance r s = match s.nextMove with
      | .enter i => enterStep i s
      | .park => .next (s.park.setPulses true (releaseRequest s.params.kind r)) := by
  cases hm : s.nextMove <;> simp [execAdvance, unlessFaulted_of_unfaulted h, requireBound_of_bound hb, hc, hm]

/-- ADVANCE to a step: the ordinary step and the loop. -/
theorem execAdvance_enter {s : State} {i w : Nat} (h : s.faultQ = false) (hb : s.bound = true) (hc : s.cursor ≠ s.E)
    (hm : s.nextMove = .enter i) (hw : Memory.read s.T i = some w) (r : Bool) :
    execAdvance r s =
      .next (((s.setCursor (BitVec.ofNat 6 i)).classify w s.held).setPulses false false) := by
  rw [execAdvance_playing h hb hc]
  simp only [hm, enterStep, hw]

/-- ADVANCE past the end. -/
theorem execAdvance_park {s : State} (h : s.faultQ = false) (hb : s.bound = true) (hc : s.cursor ≠ s.E)
    (hm : s.nextMove = .park) (r : Bool) :
    execAdvance r s = .next (s.park.setPulses true (releaseRequest s.params.kind r)) := by
  rw [execAdvance_playing h hb hc]
  simp only [hm]

/-- ADVANCE, whole: faulted, unbound, parked, entering a step, or parking. -/
theorem execAdvance_cases {r : Bool} {s t : State} (h : execAdvance r s = .next t) :
    (s.faultQ = true ∧ t = s) ∨
    (s.faultQ = false ∧ s.bound = false ∧ t = s.raiseUnbound 0b10#2) ∨
    (s.faultQ = false ∧ s.bound = true ∧ s.cursor = s.E ∧ t = s.setPulses false false) ∨
    (s.faultQ = false ∧ s.bound = true ∧ s.cursor ≠ s.E ∧ ∃ i w, s.nextMove = .enter i ∧ Memory.read s.T i = some w ∧
      t = ((s.setCursor (BitVec.ofNat 6 i)).classify w s.held).setPulses false false) ∨
    (s.faultQ = false ∧ s.bound = true ∧ s.cursor ≠ s.E ∧ s.nextMove = .park ∧
      t = s.park.setPulses true (releaseRequest s.params.kind r)) := by
  cases hf : s.faultQ
  · cases hb : s.bound
    · rw [execAdvance_unbound hf hb] at h; cases h
      exact .inr (.inl ⟨rfl, rfl, rfl⟩)
    · by_cases hc : s.cursor = s.E
      · rw [execAdvance_parked hf hb hc] at h; cases h
        exact .inr (.inr (.inl ⟨rfl, rfl, hc, rfl⟩))
      · rw [execAdvance_playing hf hb hc] at h
        cases hm : s.nextMove with
        | enter i =>
          simp only [hm] at h
          obtain ⟨w, hw, rfl⟩ := enterStep_cases h
          exact .inr (.inr (.inr (.inl ⟨rfl, rfl, hc, i, w, rfl, hw, rfl⟩)))
        | park =>
          simp only [hm] at h; cases h
          exact .inr (.inr (.inr (.inr ⟨rfl, rfl, hc, rfl, rfl⟩)))
  · rw [show execAdvance r s = .next s from exec_of_faulted (.advance r) hf] at h; cases h
    exact .inl ⟨rfl, rfl⟩

/-- EVAL, whole: faulted, unbound, or the interpolated value. -/
theorem execEval_cases {f : Nat} {s t : State} (h : execEval f s = .next t) :
    (s.faultQ = true ∧ t = s) ∨
    (s.faultQ = false ∧ s.bound = false ∧ t = s.raiseUnbound 0b11#2) ∨
    (s.faultQ = false ∧ s.bound = true ∧
      t = (s.setValue (interpolate s.params s.base s.delta f)).setPulses false false) := by
  cases hf : s.faultQ
  · cases hb : s.bound
    · rw [execEval_unbound hf hb] at h; cases h
      exact .inr (.inl ⟨rfl, rfl, rfl⟩)
    · rw [execEval_live hf hb] at h; cases h
      exact .inr (.inr ⟨rfl, rfl, rfl⟩)
  · rw [show execEval f s = .next s from exec_of_faulted (.eval f) hf] at h; cases h
    exact .inl ⟨rfl, rfl⟩

/-- A command, whole: faulted, or live with its own effect. -/
theorem exec_cases {i : Instr} {s t : State} (h : exec i s = .next t) :
    (s.faultQ = true ∧ t = s) ∨ (s.faultQ = false ∧
      ((i = .nop ∧ t = s.setPulses false false) ∨
       (∃ tb l e, i = .init tb l e ∧
          t = (((s.bind tb l e).setCursor 0#6).classify tb[0] 0).setPulses false false) ∨
       (∃ r, i = .advance r ∧ execAdvance r s = .next t) ∨ (∃ f, i = .eval f ∧ execEval f s = .next t))) := by
  cases hf : s.faultQ
  · refine .inr ⟨rfl, ?_⟩
    cases i with
    | nop =>
      rw [show exec .nop s = _ from execNop_live hf] at h; cases h
      exact .inl ⟨rfl, rfl⟩
    | init tb l e =>
      rw [show exec (.init tb l e) s = _ from execInit_live hf tb l e] at h; cases h
      exact .inr (.inl ⟨tb, l, e, rfl, rfl⟩)
    | advance r => exact .inr (.inr (.inl ⟨r, rfl, h⟩))
    | eval f => exact .inr (.inr (.inr ⟨f, rfl, h⟩))
  · rw [exec_of_faulted i hf] at h; cases h
    exact .inl ⟨rfl, rfl⟩

/-- No command touches the interface's side of the state. -/
theorem exec_interface {i : Instr} {s t : State} (h : exec i s = .next t) :
    t.params = s.params ∧ t.ports = s.ports ∧ t.schedule = s.schedule := by
  cases hf : s.faultQ
  · cases i with
    | nop => rw [show exec .nop s = _ from execNop_live hf] at h; cases h; exact ⟨rfl, rfl, rfl⟩
    | init tb l e => rw [show exec (.init tb l e) s = _ from execInit_live hf tb l e] at h; cases h; exact ⟨rfl, rfl, rfl⟩
    | advance r =>
      obtain ⟨_, rfl⟩ | ⟨_, _, rfl⟩ | ⟨_, _, _, rfl⟩ | ⟨_, _, _, _, _, _, _, rfl⟩ | ⟨_, _, _, _, rfl⟩ :=
        execAdvance_cases h <;> exact ⟨rfl, rfl, rfl⟩
    | eval f => obtain ⟨_, rfl⟩ | ⟨_, _, rfl⟩ | ⟨_, _, rfl⟩ := execEval_cases h <;> exact ⟨rfl, rfl, rfl⟩
  · rw [exec_of_faulted i hf] at h; cases h; exact ⟨rfl, rfl, rfl⟩

/-- The registers' part of a state on other port values. -/
def State.onPorts (q : Ports) (qs : List Ports) (s : State) : State := { s with ports := q, schedule := qs }

/-- A command does not see the ports: its operands are in the instruction. -/
theorem exec_onPorts (i : Instr) (q : Ports) (qs : List Ports) (s : State) :
    exec i (s.onPorts q qs) = andThen (exec i s) fun t => .next (t.onPorts q qs) := by
  cases hf : s.faultQ
  · have hf' : (s.onPorts q qs).faultQ = false := hf
    cases i with
    | nop => rw [show exec .nop s = _ from execNop_live hf, show exec .nop _ = _ from execNop_live hf']; rfl
    | init tb l e =>
      rw [show exec (.init tb l e) s = _ from execInit_live hf tb l e,
        show exec (.init tb l e) _ = _ from execInit_live hf' tb l e]; rfl
    | advance r =>
      change execAdvance r _ = andThen (execAdvance r s) _
      cases hb : s.bound
      · rw [execAdvance_unbound hf hb, execAdvance_unbound hf' hb]; rfl
      · by_cases hc : s.cursor = s.E
        · rw [execAdvance_parked hf hb hc, execAdvance_parked hf' hb hc]; rfl
        · rw [execAdvance_playing hf hb hc, execAdvance_playing hf' hb hc]
          have hm : (s.onPorts q qs).nextMove = s.nextMove := rfl
          rw [hm]
          cases s.nextMove with
          | enter k =>
            by_cases hk : k < 32
            · simp only [enterStep_of_lt hk]; rfl
            · simp only [enterStep_of_ge (Nat.not_lt.mp hk)]; rfl
          | park => rfl
    | eval f =>
      change execEval f _ = andThen (execEval f s) _
      cases hb : s.bound
      · rw [execEval_unbound hf hb, execEval_unbound hf' hb]; rfl
      · rw [execEval_live hf hb, execEval_live hf' hb]; rfl
  · rw [exec_of_faulted i hf, exec_of_faulted i (show (s.onPorts q qs).faultQ = true from hf)]; rfl

/-- A step, whole: the reset, or the fetched command, and then the ports' next values. -/
theorem step_cases {s t : State} (h : step s = .next t) :
    (s.ports.rst = true ∧ t = s.applyReset.presentNext) ∨
    (s.ports.rst = false ∧ ∃ u, exec s.fetch s = .next u ∧ t = u.presentNext) := by
  unfold step at h
  obtain ⟨u, hu, ht⟩ := andThen_eq_next.mp h
  cases ht
  cases hr : s.ports.rst
  · rw [if_neg (by simp [hr])] at hu
    exact .inr ⟨rfl, u, hu, rfl⟩
  · rw [if_pos hr] at hu; cases hu
    exact .inl ⟨rfl, rfl⟩

/-- A command that decodes back from its own ports is issued as its `exec`: the ports come back as they were. -/
theorem issue_eq_exec {i : Instr} {s : State} (hd : decode s.params (encode i) = i) : issue i s = exec i s := by
  have h1 : issue i s = andThen (exec i (s.onPorts (encode i) (s.ports :: s.schedule))) fun t => .next t.presentNext := by
    unfold issue step
    rw [if_neg (by simp)]
    change andThen (exec (decode s.params (encode i)) _) _ = _
    rw [hd]; rfl
  rw [h1, exec_onPorts]
  cases he : exec i s with
  | next t =>
    obtain ⟨_, h2, h3⟩ := exec_interface he
    change Host.Outcome.next { t with ports := s.ports, schedule := s.schedule } = _
    rw [← h2, ← h3]
  | fault f => rfl
  | refused f => rfl

/-- One step and then `k` more. -/
theorem core_run_succ {s t : State} (k : Nat) (h : step s = .next t) :
    Host.Core.run core (k + 1) s = Host.Core.run core k t := by
  have h' : core.step s = .next t := h
  simp only [Host.Core.run, h']

/-- Commands in two parts. -/
theorem execAll_append (is js : List Instr) (s : State) :
    execAll (is ++ js) s = andThen (execAll is s) (execAll js) := by
  induction is generalizing s with
  | nil => rfl
  | cons i is ih =>
    change andThen (exec i s) (execAll (is ++ js)) = andThen (andThen (exec i s) (execAll is)) _
    cases exec i s with
    | next t => exact ih t
    | fault f => rfl
    | refused f => rfl

end Sys2Proof.Machine
end

