-- ==== Sys2Proof/Laws/PerInstr.lean ====
section
/-! SUPPORT. Statements for every command, one lemma per constructor: the encoder's words fit the ports. -/

namespace Sys2Proof.Laws.EncodedFitsPorts

/-- A command whose operands fit the instance is encoded in port values that fit it. -/
def Statement (i : Instr) : Prop := ∀ p : Params, i.wf p = true → (encode i).wf p = true

theorem zero_wf (p : Params) : Table.zero.wf p = true := by simp [Table.wf, Table.zero]

theorem nop : Statement .nop := fun p _ => by simp [encode, Ports.wf, Ports.idle, zero_wf]

theorem init (table : Table) (loopIdx endIdx : Index) : Statement (.init table loopIdx endIdx) := fun p h => by
  simpa [encode, Ports.wf, Ports.idle, Instr.wf] using h

theorem advance (released : Bool) : Statement (.advance released) := fun p _ => by
  simp [encode, Ports.wf, Ports.idle, zero_wf]

theorem eval (frac : Nat) : Statement (.eval frac) := fun p h => by
  have hz := zero_wf p
  simp only [Instr.wf, decide_eq_true_eq] at h
  simp [encode, Ports.wf, Ports.idle, hz, h]

end Sys2Proof.Laws.EncodedFitsPorts
end

