-- ==== Sys2Proof/Tests/Slice0.lean ====
section
/-! SUPPORT. Decoding shown on words written out from the spec, the WellFormed smoke tests, one or two vectors of
95_test_vectors.md per command, and a witness for the hypotheses of every statement. Widths 6 and 8 are the vectors' own. -/

namespace Sys2Proof.Tests

open Sys2Proof Sys2Proof.Machine

/-! ### Fixtures -/

/-- The instances of 95_test_vectors.md. -/
def build (k : TrackKind) : Params := { kind := k, magW := 6, fracW := 8 }

/-- The table whose first words are given, the rest 0. -/
def tableOf (ws : List Nat) : Table := ⟨⟨(ws ++ List.replicate 32 0).take 32⟩, by simp⟩

/-- A bound track. -/
def track (k : TrackKind) (cursor e l : Index) (base delta : Int) (ws : List Nat) : State :=
  { State.resetOf (build k) with
    bound := true, T := tableOf ws, E := e, L := l, cursor := cursor, base := base, delta := delta }

/-- The next state of a command, if it has one. -/
def after (i : Instr) (s : State) : Option State :=
  match exec i s with
  | .next t => some t
  | .fault _ => none
  | .refused _ => none

/-- The first playing step of a looping track, bounds 1 and 4. -/
def looping : State := track .amp 1#6 4#6 1#6 0 31 [0x0F9, 0x0F9, 0x0F8, 0x0FA]

/-- The last step of a track without a loop (vector A6). -/
def lastStep : State := track .amp 3#6 4#6 32#6 10 5 []

/-- A parked track (vector A9). -/
def parked : State := track .amp 4#6 4#6 32#6 15 0 []

/-- A faulted block (program P4). -/
def faulted : State := { State.reset with faultQ := true, faultReason := .unbound 0b11#2 }

/-- A state no run reaches: `E` past the step space, at the last step that exists. -/
def strayEnd : State := track .amp 31#6 63#6 63#6 0 0 []

def envelope : Envelope := { table := tableOf [0x0FB, 0x0FB, 0x0FB, 0x0FB], loopIndex := 32#6, endIndex := 4#6 }

/-- A voice whose `AMP` instance is on its last step. -/
def voice : Voice :=
  { amp := lastStep, pitch := track .pitch 0#6 4#6 0#6 0 0 [], released := false, stepMul := 2, ticks := 1 }

/-! ### Decoding: words from the tables of 30_encoding.md -/

/-- R54: `0b00`. -/
theorem test_decode_nop : decodeTableWord 8 0b00 = some .nop := by decide

/-- R54: `0b01`. -/
theorem test_decode_init : decodeTableWord 8 0b01 = some (.init (tableOf []) 0#6 0#6) := by decide

/-- R54: `0b10`. -/
theorem test_decode_advance : decodeTableWord 8 0b10 = some (.advance false) := by decide

/-- R54: `0b11`. -/
theorem test_decode_eval : decodeTableWord 8 0b11 = some (.eval 0) := by decide

/-- R55: the operands come from their own ports. -/
theorem test_decode_operands :
    decode (build .amp) { Ports.idle with cmd := 0b01#2, tableI := tableOf [0x0F9], loopI := 5#6, endI := 33#6 } =
      .init (tableOf [0x0F9]) 5#6 33#6 ∧
    decode (build .amp) { Ports.idle with cmd := 0b10#2, releasedI := true } = .advance true ∧
    decode (build .amp) { Ports.idle with cmd := 0b11#2, fracI := 200 } = .eval 200 := by decide

/-- R56, R57: `011111_0_01`, `100000_0_10`, `110110_0_11`, `110110_0_00`, `000101_1_01`. -/
theorem test_decode_entries :
    [0b011111001, 0b100000010, 0b110110011, 0b110110000, 0b000101101].map (decodeEntry (build .amp)) =
      [⟨31, .attack, false⟩, ⟨-32, .decay, false⟩, ⟨-10, .slide, false⟩, ⟨-10, .step, false⟩, ⟨5, .attack, true⟩] := by
  decide

/-- The encoder writes the vectors' words (95_test_vectors.md section 2). -/
theorem test_encode_entries :
    encodeEntry (build .amp) ⟨-32, .slide, false⟩ = 0x103 ∧ encodeEntry (build .amp) ⟨5, .attack, true⟩ = 0x02D := by
  decide

/-- R64: the assembler syntax. -/
theorem test_print :
    printInstr "env1" (.init (tableOf []) 0#6 0#6) = "INIT env=env1" ∧ printInstr "" (.advance true) = "ADVANCE rel=1" ∧
      printInstr "" (.eval 128) = "EVAL f=128" ∧ printEntry ⟨5, .attack, true⟩ = "(5, ATTACK, s)" := by decide

/-- No two rows of the opcode table overlap: the four codes differ. -/
theorem test_codes_differ :
    [(encode .nop).cmd, (encode (.init (tableOf []) 0#6 0#6)).cmd, (encode (.advance false)).cmd, (encode (.eval 0)).cmd] =
      [0b00#2, 0b01#2, 0b10#2, 0b11#2] := by decide

/-! ### WellFormed: each check refuses an ill-formed term -/

theorem test_params_magW_refused : Params.wf { kind := .amp, magW := 5, fracW := 8 } = false := by decide

theorem test_params_fracW_refused : Params.wf { kind := .amp, magW := 6, fracW := 0 } = false := by decide

theorem test_table_word_refused : Table.wf (build .amp) (tableOf [0, 512]) = false := by decide

theorem test_entry_high_refused : Entry.wf (build .amp) ⟨32, .attack, false⟩ = false := by decide

theorem test_entry_low_refused : Entry.wf (build .amp) ⟨-33, .attack, false⟩ = false := by decide

theorem test_init_refused : Instr.wf (build .amp) (.init (tableOf [512]) 0#6 0#6) = false := by decide

theorem test_eval_refused : Instr.wf (build .amp) (.eval 256) = false := by decide

theorem test_ports_frac_refused : Ports.wf (build .amp) { Ports.idle with fracI := 256 } = false := by decide

theorem test_ports_table_refused : Ports.wf (build .amp) { Ports.idle with tableI := tableOf [512] } = false := by decide

/-! ### Commands: vectors of 95_test_vectors.md -/

/-- N1. -/
theorem test_nop_clears_pulses : (after .nop { parked with termQ := true, rreqQ := true }) = some parked := by decide

/-- I6: `delta` needs 7 bits. -/
theorem test_init_decay_of_magMin :
    (after (.init (tableOf [0x102]) 0#6 0#6) (State.resetOf (build .pitch))).map (fun t => (t.E, t.base, t.delta)) =
      some (32#6, -32, 32) := by decide

/-- I4: an `AMP` STEP holds 0 at INIT. -/
theorem test_init_amp_step :
    (after (.init (tableOf [0x0F8]) 0#6 4#6) parked).map (fun t => (t.cursor, t.base, t.delta)) = some (0#6, 0, 0) := by
  decide

/-- A6. -/
theorem test_advance_parks :
    (after (.advance false) lastStep).map (fun t => (t.cursor, t.base, t.delta, t.termQ, t.rreqQ)) =
      some (4#6, 15, 0, true, true) := by decide

/-- A14: the loop is tested against the effective end. -/
theorem test_advance_loops_at_32 :
    (after (.advance false) (track .amp 31#6 32#6 0#6 2 0 [0x00B])).map (fun t => (t.cursor, t.base, t.delta)) =
      some (0#6, 2, -1) := by decide

/-- E4: the floor of a negative number. -/
theorem test_eval_floor : (after (.eval 128) (track .amp 0#6 4#6 0#6 31 (-31) [])).map (·.valueQ) = some 15 := by decide

/-- E15. -/
theorem test_eval_unbound :
    (after (.eval 3) State.reset).map (fun t => (t.faultQ, t.faultReason, t.bound)) =
      some (true, .unbound 0b11#2, false) := by decide

/-- R106: reset takes precedence over the command. -/
theorem test_reset_over_command :
    (match step { parked with ports := { encode (.advance false) with rst := true } } with
      | .next t => t.bound
      | _ => true) = false := by decide

/-- R116: with `STEP_SCALES_ADVANCE` and `step = 2` the second tick advances; R119: it releases the voice. -/
theorem test_control_tick_releases :
    (match voice.handle { DriverParams.default with stepScalesAdvance := true } .controlTick with
      | .next w => (w.released, w.phase, w.ticks)
      | _ => (false, .idle, 0)) = (true, .releasing, 2) := by decide

/-! ### The invariant on the fixtures -/

theorem looping_inv : looping.Inv :=
  ⟨by decide, by decide, fun _ => ⟨by decide, by decide, by decide⟩, fun _ => ⟨by decide, by decide, by decide⟩, by decide,
    ⟨by decide, by decide, by decide⟩, ⟨by decide, by decide⟩, by decide⟩

theorem lastStep_inv : lastStep.Inv :=
  ⟨by decide, by decide, fun _ => ⟨by decide, by decide, by decide⟩, fun _ => ⟨by decide, by decide, by decide⟩, by decide,
    ⟨by decide, by decide, by decide⟩, ⟨by decide, by decide⟩, by decide⟩

theorem parked_inv : parked.Inv :=
  ⟨by decide, by decide, fun _ => ⟨by decide, by decide, by decide⟩, fun _ => ⟨by decide, by decide, by decide⟩, by decide,
    ⟨by decide, by decide, by decide⟩, ⟨by decide, by decide⟩, by decide⟩

theorem voice_inv : voice.Inv :=
  ⟨lastStep_inv,
    ⟨by decide, by decide, fun _ => ⟨by decide, by decide, by decide⟩, fun _ => ⟨by decide, by decide, by decide⟩,
      by decide, ⟨by decide, by decide, by decide⟩, ⟨by decide, by decide⟩, by decide⟩, by decide, by decide⟩

/-- `lastStep` parks next. -/
theorem lastStep_parks : lastStep.ParksNext := ⟨by decide, by decide, by decide, by decide, by decide⟩

theorem looping_noReset : looping.NoReset := ⟨by decide, by decide⟩

theorem faulted_noReset : faulted.NoReset := ⟨by decide, by decide⟩

/-! ### Witnesses: states and operands that meet each statement's hypotheses -/

theorem witness_DecodePicksCommandByCode :
    (encode .nop).cmd = 0b00#2 ∧ (encode (.init (tableOf []) 0#6 0#6)).cmd = 0b01#2 ∧
      (encode (.advance true)).cmd = 0b10#2 ∧ (encode (.eval 255)).cmd = 0b11#2 := by decide

theorem witness_EntryFieldsAsLaidOut :
    (build .amp).wf = true ∧ 0x0F8 % 4 = 0 ∧ 0x0F9 % 4 = 1 ∧ 0x102 % 4 = 2 ∧ 0x1FF % 4 = 3 := by decide

theorem witness_DecodeOfEncodeIsCommand :
    Instr.nop.wf (build .amp) = true ∧ (Instr.init (tableOf [511]) 63#6 63#6).wf (build .amp) = true ∧
      (Instr.advance true).wf (build .amp) = true ∧ (Instr.eval 255).wf (build .amp) = true := by decide

theorem witness_DecodeOfEncodeIsEntry :
    (build .pitch).wf = true ∧ Entry.wf (build .pitch) ⟨-32, .decay, true⟩ = true ∧
      Entry.wf (build .pitch) ⟨31, .slide, false⟩ = true := by decide

theorem witness_EncodeOfDecodeIsEntryWord : (build .pitch).wf = true ∧ 511 < 2 ^ (build .pitch).entryW := by decide

/-- Two different port values for each code, differing in ignored ports only. -/
theorem witness_IgnoredPortsHaveNoEffect :
    (encode .nop).rst = false ∧ (encode .nop).cmd = { encode .nop with fracI := 9 }.cmd ∧
      (encode (.eval 3)).cmd = 0b11#2 ∧ (encode (.eval 3)).fracI = { encode (.eval 3) with releasedI := true }.fracI ∧
      (encode (.advance true)).releasedI = { encode (.advance true) with endI := 7#6 }.releasedI ∧
      (encode (.init (tableOf [1]) 2#6 3#6)).loopI = { encode (.init (tableOf [1]) 2#6 3#6) with fracI := 1 }.loopI := by
  decide

theorem witness_StepRunsFetchedCommand :
    looping.ports.rst = false ∧ (after (decode looping.params looping.ports) looping).isSome = true ∧
      (strayEnd.withFetchWord 8 0b10).ports.rst = false ∧
      (match exec (strayEnd.withFetchWord 8 0b10).fetch (strayEnd.withFetchWord 8 0b10) with
        | .fault f => f
        | _ => .noSuchStep 0) = .noSuchStep 32 := by decide

theorem witness_ResetInputOverridesCommand :
    { looping with ports := { Ports.idle with rst := true } }.ports.rst = true := by decide

theorem witness_ResetStateMeetsInvariant : (build .amp).wf = true ∧ (build .pitch).wf = true := by decide

theorem witness_FaultedBlockIgnoresCommands : faulted.faultQ = true := by decide

theorem witness_NopClearsPulsesOnly : State.reset.faultQ = false ∧ looping.faultQ = false := by decide

theorem witness_InitLoadsStepZero : State.reset.faultQ = false ∧ parked.faultQ = false := by decide

theorem witness_InitForgetsPreviousTrack :
    looping.FaultConsistent ∧ (State.resetOf (build .amp)).FaultConsistent ∧ looping.faultQ = false ∧
      (State.resetOf (build .amp)).faultQ = false ∧ looping.params = (State.resetOf (build .amp)).params :=
  ⟨looping_inv.fault, ⟨by decide, by decide, by decide⟩, by decide, by decide, by decide⟩

theorem witness_EffectiveEndIsNormalised :
    (0#6).toNat = 0 ∧ 32 ≤ (32#6).toNat ∧ 32 ≤ (63#6).toNat ∧ 1 ≤ (1#6).toNat ∧ (31#6).toNat < 32 := by decide

theorem witness_AdvanceMovesToNextStep :
    looping.faultQ = false ∧ looping.bound = true ∧ looping.E.toNat ≤ 32 ∧
      looping.cursor.toNat + 1 < looping.E.toNat ∧
      (track .pitch 30#6 32#6 0#6 0 0 []).cursor.toNat + 1 < (track .pitch 30#6 32#6 0#6 0 0 []).E.toNat := by decide

theorem witness_AdvanceJumpsToLoopTarget :
    (track .amp 31#6 32#6 31#6 2 0 []).faultQ = false ∧ (track .amp 31#6 32#6 31#6 2 0 []).bound = true ∧
      (track .amp 31#6 32#6 31#6 2 0 []).E.toNat ≤ 32 ∧
      (track .amp 31#6 32#6 31#6 2 0 []).cursor.toNat + 1 = (track .amp 31#6 32#6 31#6 2 0 []).E.toNat ∧
      (track .amp 31#6 32#6 31#6 2 0 []).L.toNat < (track .amp 31#6 32#6 31#6 2 0 []).E.toNat := by decide

theorem witness_AdvanceParksAtEnd :
    lastStep.faultQ = false ∧ lastStep.bound = true ∧ lastStep.cursor.toNat + 1 = lastStep.E.toNat ∧
      lastStep.E.toNat ≤ lastStep.L.toNat := by decide

theorem witness_AdvanceLeavesParkedTrack :
    parked.faultQ = false ∧ parked.bound = true ∧ parked.cursor = parked.E := by decide

theorem witness_AdvanceBeforeInitFaults : State.reset.faultQ = false ∧ State.reset.bound = false := by decide

/-- The one stop: an ADVANCE that would read step 32. -/
theorem witness_CommandStopsOnlyOutsideStepSpace :
    (match exec (.advance false) strayEnd with | .fault f => f | _ => .noSuchStep 0) = .noSuchStep 32 := by decide

theorem witness_EvalInterpolates : looping.faultQ = false ∧ looping.bound = true := by decide

theorem witness_EvalBeforeInitFaults : State.reset.faultQ = false ∧ State.reset.bound = false := by decide

/-- A rising step of the greatest height the second clause takes, a falling one of the greatest the last takes. -/
theorem witness_EvalAtTheEndFractions :
    (0 : Int) < 256 ∧ (256 : Int) ≤ 2 ^ (build .amp).fracW ∧ (-255 : Int) ≤ 0 ∧
      -(-255 : Int) < 2 ^ (build .amp).fracW := by decide

theorem witness_EvalStaysWithinRamp :
    looping.Inv ∧ looping.faultQ = false ∧ looping.bound = true ∧ 255 < 2 ^ looping.params.fracW ∧
      (after (.eval 255) looping).isSome = true := ⟨looping_inv, by decide⟩

theorem witness_EvalMonotoneInFraction :
    looping.faultQ = false ∧ looping.bound = true ∧ 0 ≤ 255 ∧ (after (.eval 0) looping).isSome = true ∧
      (after (.eval 255) looping).isSome = true ∧ 0 ≤ looping.delta ∧
      (track .amp 0#6 4#6 0#6 31 (-31) []).delta ≤ 0 := by decide

theorem witness_EvalOfParkedTrackIsFrozen : parked.Inv ∧ parked.faultQ = false ∧ parked.finished = true :=
  ⟨parked_inv, by decide⟩

theorem witness_TableChangesByInitOnly :
    (after (.advance true) looping).isSome = true ∧ looping.faultQ = false ∧
      (after (.init (tableOf [1]) 0#6 0#6) looping).isSome = true ∧ (build .amp).wf = true := by decide

/-- INIT and ADVANCE do change `base`. -/
theorem witness_BaseIsValueAtFractionZero :
    looping.faultQ = false ∧ looping.bound = true ∧
      (after (.advance false) lastStep).map (·.base) = some 15 ∧ lastStep.base ≠ 15 := by decide

theorem witness_RegistersKeepTheirWriters :
    (after .nop looping).isSome = true ∧ (after (.eval 3) looping).isSome = true ∧
      (after (.advance true) looping).isSome = true ∧ looping.bound = true ∧ runsUnbound .nop = true := by decide

theorem witness_PulsesByCommand :
    (after (.advance false) lastStep).map (fun t => (t.termQ, t.faultQ)) = some (true, false) ∧ lastStep.faultQ = false ∧
      (after .nop faulted).isSome = true ∧ faulted.faultQ = true := by decide

theorem witness_TheseNeverFault :
    looping.faultQ = false ∧ looping.E.toNat ≤ 32 ∧ looping.bound = true ∧ State.reset.faultQ = false ∧
      State.reset.E.toNat ≤ 32 ∧ runsUnbound (.init (tableOf [511]) 63#6 63#6) = true := by decide

theorem witness_FinishedHoldsUntilInit :
    parked.finished = true ∧ (after (.advance false) parked).isSome = true := by decide

theorem witness_SmoothFlagHasNoEffect : (after (.advance false) looping).isSome = true := by decide

theorem witness_ReleasedFlagMattersOnlyWhenParking :
    lastStep.ParksNext ∧ (after (.advance false) lastStep).isSome = true ∧ ¬ looping.ParksNext :=
  ⟨lastStep_parks, by decide, fun h => absurd h.noLoop (by decide)⟩

/-- An ADVANCE that classifies a DECAY entry: its effect is not STEP. -/
theorem witness_KindsDifferInStepAndReleaseRequest :
    (after (.advance false) (track .amp 0#6 4#6 0#6 0 31 [0, 0x0A2])).isSome = true ∧
      classifiedWord (.advance false) (track .amp 0#6 4#6 0#6 0 31 [0, 0x0A2]) = some 0x0A2 ∧
      (decodeEntry (build .amp) 0x0A2).eff ≠ .step := by decide

/-- Another table that differs at index 4 = `E` only. -/
theorem witness_EntriesPastEndNeverRead :
    looping.E.toNat ≤ 32 ∧ tableOf [0x0F9, 0x0F9, 0x0F8, 0x0FA, 7] ≠ looping.T ∧
      (∀ k, k < looping.E.toNat → Memory.read (tableOf [0x0F9, 0x0F9, 0x0F8, 0x0FA, 7]) k = Memory.read looping.T k) ∧
      (after (.advance false) looping).isSome = true := by decide

theorem witness_StepKeepsInvariant :
    looping.Inv ∧ (match step looping with | .next _ => true | _ => false) = true := ⟨looping_inv, by decide⟩

theorem witness_RunsFromInvariantNeverStop : looping.Inv ∧ lastStep.Inv := ⟨looping_inv, lastStep_inv⟩

theorem witness_BoundBlockRunsSafely :
    looping.Inv ∧ looping.bound = true ∧ looping.faultQ = false ∧ looping.NoReset :=
  ⟨looping_inv, by decide, by decide, looping_noReset⟩

theorem witness_FaultIsStickyUntilReset : faulted.faultQ = true ∧ faulted.NoReset := ⟨by decide, faulted_noReset⟩

theorem witness_LoopNeverTerminates :
    looping.Inv ∧ looping.faultQ = false ∧ looping.bound = true ∧ looping.finished = false ∧
      looping.L.toNat < looping.E.toNat := ⟨looping_inv, by decide⟩

theorem witness_LoopCursorIsPeriodic :
    looping.Inv ∧ looping.faultQ = false ∧ looping.bound = true ∧ looping.L.toNat < looping.E.toNat ∧
      looping.cursor = looping.L := ⟨looping_inv, by decide⟩

/-- The looping track stands at `L = 1` with the ramp of `T[1] = (31, ATTACK)`; its period is 3. -/
theorem witness_LoopRampIsPeriodicFromSecondPass :
    looping.Inv ∧ looping.cursor = looping.L ∧ Memory.read looping.T looping.L.toNat = some 0x0F9 ∧
      RampRule looping.params.kind (decodeEntry looping.params 0x0F9) 7 looping.base looping.delta ∧
      looping.E.toNat - looping.L.toNat ≤ (List.replicate 3 false).length ∧
      (List.replicate 6 false).length = (List.replicate 3 false).length + (looping.E.toNat - looping.L.toNat) ∧
      (match execAll ((List.replicate 3 false).map .advance) looping with | .next _ => true | _ => false) = true ∧
      (match execAll ((List.replicate 6 false).map .advance) looping with | .next _ => true | _ => false) = true :=
  ⟨looping_inv, by decide, by decide, ⟨by decide, by decide, by decide, by decide, by decide⟩, by decide, by decide,
    by decide, by decide⟩

/-- With `E = 4`: lists of length `E - 1`, `E` and `E + 1`, one for each clause; and `E` of `end_i = 0` at the edge `L = 32`. -/
theorem witness_TrackTerminatesAtEthAdvance :
    State.reset.faultQ = false ∧ (normEnd 4#6).toNat ≤ (32#6).toNat ∧ (normEnd 0#6).toNat ≤ (32#6).toNat ∧
      [true, true, true].length + 1 = (normEnd 4#6).toNat ∧ [true, true, true, false].length = (normEnd 4#6).toNat ∧
      [true, true, true, false, false].length = (normEnd 4#6).toNat + 1 := by decide

theorem witness_HardTriggerLoadsBothTracks :
    envelope.table.wf voice.amp.params = true ∧ envelope.table.wf voice.pitch.params = true ∧
      (match voice.handle DriverParams.default (.trigger true envelope envelope 2) with
        | .next w => w.released
        | _ => true) = false ∧ advanceDue DriverParams.default 2 1 = true := by decide

theorem witness_GlideTriggerReloadsOnlyByParameter :
    DriverParams.default.glidePathReinit = false ∧ voice.amp.bound = true ∧
      { DriverParams.default with glidePathReinit := true }.glidePathReinit = true ∧
      (Voice.resetOf 6 8).amp.bound = false := by decide

theorem witness_ReleaseOnlySetsTheFlag :
    advanceDue DriverParams.default voice.stepMul (voice.ticks + 1) = true ∧
      (match voice.handle DriverParams.default .controlTick with | .next _ => true | _ => false) = true := by decide

theorem witness_ReleaseRequestReleasesVoice :
    voice.Inv ∧ advanceDue DriverParams.default voice.stepMul (voice.ticks + 1) = true ∧
      (match voice.handle DriverParams.default .controlTick with | .next w => w.amp.outputs.rreqO | _ => false) = true :=
  ⟨voice_inv, by decide⟩

/-- With `step = 2`, tick 2 advances and tick 1 does not. -/
theorem witness_ControlTickAdvancesBothTracks :
    (voice.ticks + 1) % max 1 voice.stepMul = 0 ∧ ({ voice with ticks := 0 }.ticks + 1) % max 1 voice.stepMul ≠ 0 ∧
      { DriverParams.default with stepScalesAdvance := true }.stepScalesAdvance = true ∧
      (match voice.handle { DriverParams.default with stepScalesAdvance := true } .controlTick with
        | .next _ => true
        | _ => false) = true := by decide

theorem witness_SampleEvaluatesTracks :
    255 < 2 ^ voice.pitch.params.fracW ∧ 255 < 2 ^ voice.amp.params.fracW ∧
      (match voice.handle DriverParams.default (.sample (some 255) 255) with | .next _ => true | _ => false) = true := by
  decide

theorem witness_VoiceEventsKeepInvariant : voice.Inv := voice_inv

theorem witness_VoiceReleasesWhenEnvelopeEnds :
    voice.Inv ∧ voice.amp.faultQ = false ∧ (normEnd envelope.endIndex).toNat ≤ envelope.loopIndex.toNat :=
  ⟨voice_inv, by decide⟩

theorem witness_ChannelsAreIsolated :
    (match Registry.handle DriverParams.default [voice, voice] ⟨1, by decide⟩ .release with
      | .next r => r.map (·.released)
      | _ => []) = [false, true] := by decide

end Sys2Proof.Tests
end

section
/-! PROOF. The two kinds beside each other (00_scope.md R3): a state taken to the other kind, how each operation commutes
with that, and the two places where the kind matters, the STEP ramp (R72) and the release request (R79). -/

namespace Sys2Proof.Machine

/-- The same registers and ports on a block of kind `k`. -/
def State.onKind (k : TrackKind) (s : State) : State := { s with params := { s.params with kind := k } }

theorem State.onKind_setPulses (k : TrackKind) (a b : Bool) (s : State) :
    (s.onKind k).setPulses a b = (s.setPulses a b).onKind k := rfl

theorem State.onKind_decodeEntry (k : TrackKind) (s : State) (w : Nat) :
    decodeEntry (s.onKind k).params w = decodeEntry s.params w := rfl

/-- R72: the kind tells apart the STEP ramps alone. -/
theorem ramp_of_eff_ne_step {e : Entry} (he : e.eff ≠ .step) (k k' : TrackKind) (held : Int) :
    ramp k e held = ramp k' e held := by
  cases h : e.eff with
  | step => exact absurd h he
  | attack => simp only [ramp, h]
  | decay => simp only [ramp, h]
  | slide => simp only [ramp, h]

/-- R79: a released track makes no release request, of either kind. -/
theorem releaseRequest_released (k : TrackKind) : releaseRequest k true = false := by simp [releaseRequest]

/-- Classifying an entry that is no STEP does the same on either kind. -/
theorem State.onKind_classify {w : Nat} {s : State} (hw : (decodeEntry s.params w).eff ≠ .step) (k : TrackKind)
    (held : Int) : (s.onKind k).classify w held = (s.classify w held).onKind k := by
  simp only [State.classify, State.onKind_decodeEntry, ramp_of_eff_ne_step hw (s.onKind k).params.kind s.params.kind]
  rfl

/-- An ADVANCE that enters a step classifies the word of that step. -/
theorem classifiedWord_advance_enter {s : State} {i : Nat} (hb : s.bound = true) (hc : s.cursor ≠ s.E)
    (hm : s.nextMove = .enter i) (r : Bool) : classifiedWord (.advance r) s = Memory.read s.T i := by
  simp [classifiedWord, State.finished, hb, hc, hm]

/-- A playing track that moves to the end parks at its next ADVANCE. -/
theorem State.parksNext_of_nextMove_park {s : State} (hf : s.faultQ = false) (hb : s.bound = true)
    (hc : s.cursor ≠ s.E) (hm : s.nextMove = .park) : s.ParksNext := by
  obtain ⟨_, h⟩ | ⟨_, _, h⟩ | ⟨hlast, hloop, _⟩ := s.nextMove_cases
  · rw [hm] at h; cases h
  · rw [hm] at h; cases h
  · exact ⟨hf, hb, hc, hlast, hloop⟩

/-- EVAL does the same on either kind. -/
theorem execEval_onKind {f : Nat} {s t : State} (h : execEval f s = .next t) (k : TrackKind) :
    execEval f (s.onKind k) = .next (t.onKind k) := by
  obtain ⟨hf, rfl⟩ | ⟨hf, hb, rfl⟩ | ⟨hf, hb, rfl⟩ := execEval_cases h
  · exact exec_of_faulted (.eval f) hf
  · exact execEval_unbound (s := s.onKind k) hf hb f
  · exact execEval_live (s := s.onKind k) hf hb f

/-- ADVANCE does the same on either kind if it classifies no STEP entry, except that where it parks each kind makes its
own release request. -/
theorem execAdvance_onKind {r : Bool} {s t : State} (h : execAdvance r s = .next t)
    (hw : ∀ w, classifiedWord (.advance r) s = some w → (decodeEntry s.params w).eff ≠ .step) (k : TrackKind) :
    execAdvance r (s.onKind k) = .next (t.onKind k) ∨
    (s.ParksNext ∧ t = s.park.setPulses true (releaseRequest s.params.kind r) ∧
      execAdvance r (s.onKind k) = .next ((s.park.setPulses true (releaseRequest k r)).onKind k)) := by
  obtain ⟨hf, rfl⟩ | ⟨hf, hb, rfl⟩ | ⟨hf, hb, hc, rfl⟩ | ⟨hf, hb, hc, i, w, hm, hr, rfl⟩ | ⟨hf, hb, hc, hm, rfl⟩ :=
    execAdvance_cases h
  · exact .inl (exec_of_faulted (.advance r) hf)
  · exact .inl (execAdvance_unbound (s := s.onKind k) hf hb r)
  · exact .inl (execAdvance_parked (s := s.onKind k) hf hb hc r)
  · have hne := hw w (by rw [classifiedWord_advance_enter hb hc hm, hr])
    left
    rw [← State.onKind_setPulses, ← State.onKind_classify (s := s.setCursor (BitVec.ofNat 6 i)) hne]
    exact execAdvance_enter (s := s.onKind k) hf hb hc hm hr r
  · exact .inr ⟨s.parksNext_of_nextMove_park hf hb hc hm, rfl, execAdvance_park (s := s.onKind k) hf hb hc hm r⟩

/-- A command that classifies no STEP entry does the same on either kind, except that a parking ADVANCE makes each kind's
own release request. -/
theorem exec_onKind {i : Instr} {s t : State} (h : exec i s = .next t)
    (hw : ∀ w, classifiedWord i s = some w → (decodeEntry s.params w).eff ≠ .step) (k : TrackKind) :
    exec i (s.onKind k) = .next (t.onKind k) ∨
    (s.ParksNext ∧ ∃ r, i = .advance r ∧ t = s.park.setPulses true (releaseRequest s.params.kind r) ∧
      exec i (s.onKind k) = .next ((s.park.setPulses true (releaseRequest k r)).onKind k)) := by
  obtain ⟨hf, rfl⟩ | ⟨hf, ⟨rfl, rfl⟩ | ⟨tb, l, e, rfl, rfl⟩ | ⟨r, rfl, ha⟩ | ⟨f, rfl, he⟩⟩ := exec_cases h
  · exact .inl (exec_of_faulted i hf)
  · exact .inl (execNop_live (s := s.onKind k) hf)
  · have hne := hw tb[0] rfl
    left
    rw [← State.onKind_setPulses, ← State.onKind_classify (s := (s.bind tb l e).setCursor _) hne]
    exact execInit_live (s := s.onKind k) hf tb l e
  · obtain hsame | ⟨hp, ht, hpark⟩ := execAdvance_onKind ha hw k
    · exact .inl hsame
    · exact .inr ⟨hp, r, rfl, ht, hpark⟩
  · exact .inl (execEval_onKind he k)

/-- Settles O40: by cases on the command, the kind matters to the STEP ramp and to a parking ADVANCE's request alone; a
request with `released_i = 1` is 0 on either kind. -/
theorem kindsDifferInStepAndReleaseRequest : Obligations.KindsDifferInStepAndReleaseRequest := by
  intro i s t k h
  obtain ⟨hparams, _, _⟩ := exec_interface h
  refine ⟨by rw [hparams], fun hw => ?_⟩
  obtain hsame | ⟨hp, r, rfl, rfl, hpark⟩ := exec_onKind h hw k
  · exact ⟨t.onKind k, hsame, rfl, fun hne => absurd rfl hne⟩
  · refine ⟨_, hpark, rfl, fun hne => ⟨hp, ?_⟩⟩
    cases r with
    | false => rfl
    | true => exact absurd ((releaseRequest_released k).trans (releaseRequest_released s.params.kind).symm) hne

end Sys2Proof.Machine
end

section
/-! PROOF. `base` (10_state.md R27): what EVAL reads at fraction 0, and the commands that leave it alone. -/

namespace Sys2Proof.Machine

/-- R86 (a): fraction 0 is the start of the ramp. -/
@[simp] theorem interpolate_fraction_zero (p : Params) (base delta : Int) : interpolate p base delta 0 = base := by
  simp [interpolate, floorShift]

theorem execEval_keeps_base {f : Nat} {s t : State} (h : execEval f s = .next t) : t.base = s.base := by
  obtain ⟨_, rfl⟩ | ⟨_, _, rfl⟩ | ⟨_, _, rfl⟩ := execEval_cases h <;> rfl

/-- Settles O33: the ramp starts at `base`, and of the commands that run only INIT and ADVANCE write it. -/
theorem baseIsValueAtFractionZero : Obligations.BaseIsValueAtFractionZero := by
  refine ⟨fun s hf hb => ⟨_, execEval_live hf hb 0, ?_⟩, fun i s t h hne => ?_⟩
  · exact interpolate_fraction_zero s.params s.base s.delta
  · obtain ⟨_, rfl⟩ | ⟨_, ⟨rfl, rfl⟩ | ⟨tb, l, e, hi, _⟩ | ⟨r, hi, _⟩ | ⟨f, rfl, he⟩⟩ := exec_cases h
    · exact absurd rfl hne
    · exact absurd (State.setPulses_base false false s) hne
    · exact .inl ⟨tb, l, e, hi⟩
    · exact .inr ⟨r, hi⟩
    · exact absurd (execEval_keeps_base he) hne

end Sys2Proof.Machine
end

section
/-! PROOF. The effective end (40_sequencing.md R68): one equation per branch of `normEnd`. -/

namespace Sys2Proof.Machine

/-- R68: an end outside 1..31 means the full length. -/
theorem normEnd_of_outside {e : Index} (h : e.toNat = 0 ∨ 32 ≤ e.toNat) : normEnd e = 32#6 := if_pos h

/-- R68: an end in 1..31 is the effective end itself. -/
theorem normEnd_of_inside {e : Index} (h1 : 1 ≤ e.toNat) (h2 : e.toNat < 32) : normEnd e = e := if_neg (by omega)

/-- Settles O19: one equation of `normEnd` per clause, and its range. -/
theorem effectiveEndIsNormalised : Obligations.EffectiveEndIsNormalised := by
  intro e
  refine ⟨fun h => ?_, fun h => ?_, normEnd_of_inside, normEnd_range e⟩
  · rw [normEnd_of_outside (.inl h)]; rfl
  · rw [normEnd_of_outside (.inr h)]; rfl

end Sys2Proof.Machine
end

section
/-! PROOF. What never faults (60_exceptions.md R94): while `E` is at most 32 every command has a next state, and a command
that finds its registers leaves the fault flag and its reason alone. -/

namespace Sys2Proof.Machine

/-- ADVANCE of a bound block stops nowhere while `E` is at most 32: it enters only steps below `E`. -/
theorem exists_execAdvance_next {s : State} (hf : s.faultQ = false) (hb : s.bound = true) (hE : s.E.toNat ≤ 32)
    (r : Bool) : ∃ t, execAdvance r s = .next t := by
  by_cases hc : s.cursor = s.E
  · exact ⟨_, execAdvance_parked hf hb hc r⟩
  · cases hm : s.nextMove with
    | enter i =>
      have hi : i < 32 := (State.nextMove_lt hm).trans_le hE
      exact ⟨_, execAdvance_enter hf hb hc hm (Memory.read_of_lt s.T hi) r⟩
    | park => exact ⟨_, execAdvance_park hf hb hc hm r⟩

/-- No command stops while `E` is at most 32, whatever its operands: a faulted block ignores it and an unbound one goes
on, so only a bound block's ADVANCE reads the table. -/
theorem exists_exec_next (i : Instr) {s : State} (hE : s.E.toNat ≤ 32) : ∃ t, exec i s = .next t := by
  cases hf : s.faultQ with
  | true => exact ⟨s, exec_of_faulted i hf⟩
  | false =>
    cases i with
    | nop => exact ⟨_, execNop_live hf⟩
    | init table l e => exact ⟨_, execInit_live hf table l e⟩
    | advance r =>
      cases hb : s.bound with
      | true => exact exists_execAdvance_next hf hb hE r
      | false => exact ⟨_, execAdvance_unbound hf hb r⟩
    | eval f =>
      cases hb : s.bound with
      | true => exact ⟨_, execEval_live hf hb f⟩
      | false => exact ⟨_, execEval_unbound hf hb f⟩

/-- ADVANCE of a bound block leaves the fault registers alone. -/
theorem execAdvance_keeps_fault {r : Bool} {s t : State} (hb : s.bound = true) (h : execAdvance r s = .next t) :
    t.faultQ = s.faultQ ∧ t.faultReason = s.faultReason := by
  obtain ⟨_, rfl⟩ | ⟨_, hu, _⟩ | ⟨_, _, _, rfl⟩ | ⟨_, _, _, _, _, _, _, rfl⟩ | ⟨_, _, _, _, rfl⟩ := execAdvance_cases h
  · simp
  · simp [hb] at hu
  all_goals simp

/-- EVAL of a bound block leaves the fault registers alone. -/
theorem execEval_keeps_fault {f : Nat} {s t : State} (hb : s.bound = true) (h : execEval f s = .next t) :
    t.faultQ = s.faultQ ∧ t.faultReason = s.faultReason := by
  obtain ⟨_, rfl⟩ | ⟨_, hu, _⟩ | ⟨_, _, rfl⟩ := execEval_cases h
  · simp
  · simp [hb] at hu
  · simp

/-- R93: a command raises the fault only where it needs a bound envelope and finds none; any other leaves the fault registers
alone. -/
theorem exec_keeps_fault {i : Instr} {s t : State} (hb : s.bound = true ∨ runsUnbound i = true)
    (h : exec i s = .next t) : t.faultQ = s.faultQ ∧ t.faultReason = s.faultReason := by
  obtain ⟨_, rfl⟩ | ⟨_, ⟨_, rfl⟩ | ⟨_, _, _, _, rfl⟩ | ⟨r, rfl, ha⟩ | ⟨f, rfl, he⟩⟩ := exec_cases h
  · simp
  · simp
  · simp
  · exact execAdvance_keeps_fault (hb.resolve_right (by simp [runsUnbound])) ha
  · exact execEval_keeps_fault (hb.resolve_right (by simp [runsUnbound])) he

/-- Settles O36: the command has a next state, and there the fault registers are as before. -/
theorem theseNeverFault : Obligations.TheseNeverFault := by
  intro i s hf hE hb
  obtain ⟨t, ht⟩ := exists_exec_next i hE
  obtain ⟨hflag, hreason⟩ := exec_keeps_fault hb ht
  exact ⟨t, ht, hflag.trans hf, hreason⟩

end Sys2Proof.Machine
end

section
/-! PROOF. The control tick and `release()` (70_reset_and_hazards.md R115, R116, R119): what a tick that advances does to the
voice, and the block's invariant of the two pulses, which makes a requested release one of a bound track. -/

namespace Sys2Proof.Machine

@[simp] theorem decode_encode_advance (p : Params) (r : Bool) : decode p (encode (.advance r)) = .advance r := rfl

/-- A due tick, whole (R116, R119): each block runs ADVANCE with the flag from before the tick, and the flag then takes in
the `AMP` block's request. -/
theorem Voice.controlTick_due {d : DriverParams} {v w : Voice} (hdue : advanceDue d v.stepMul (v.ticks + 1) = true)
    (h : v.handle d .controlTick = .next w) :
    ∃ a p, exec (.advance v.released) v.amp = .next a ∧ exec (.advance v.released) v.pitch = .next p ∧
      w = { v with amp := a, pitch := p, ticks := v.ticks + 1, released := v.released || a.rreqQ } := by
  change v.controlTick d = .next w at h
  simp only [Voice.controlTick, hdue, if_true] at h
  obtain ⟨a, ha, h⟩ := andThen_eq_next.mp h
  obtain ⟨p, hp, h⟩ := andThen_eq_next.mp h
  cases h
  rw [issue_eq_exec (decode_encode_advance _ _)] at ha hp
  exact ⟨a, p, ha, hp, rfl⟩

/-- ADVANCE keeps the pulses consistent: it sets them only when it parks, and otherwise clears or keeps both. -/
theorem execAdvance_keeps_pulsesConsistent {r : Bool} {s t : State} (hs : s.PulsesConsistent)
    (h : execAdvance r s = .next t) : t.PulsesConsistent := by
  obtain ⟨_, rfl⟩ | ⟨_, _, rfl⟩ | ⟨_, _, _, rfl⟩ | ⟨_, _, _, _, _, _, _, rfl⟩ | ⟨_, hb, _, _, rfl⟩ := execAdvance_cases h
  · exact hs
  · exact ⟨hs.report, hs.request⟩
  · exact ⟨by simp, by simp⟩
  · exact ⟨by simp, by simp⟩
  · refine ⟨fun _ => by simp [hb], fun hq => ⟨rfl, ?_⟩⟩
    simp only [State.setPulses_rreqQ, releaseRequest, Bool.and_eq_true, beq_iff_eq] at hq
    exact hq.1

/-- A release request stands on a bound track only (R34, R33, R32). -/
theorem State.PulsesConsistent.bound_of_request {s : State} (hs : s.PulsesConsistent) (hq : s.rreqQ = true) :
    s.bound = true := by
  obtain ⟨hterm, _⟩ := hs.request hq
  exact (s.finished_iff.mp (hs.report hterm)).1

/-- R112: a released voice with a bound `AMP` block is in RELEASING. -/
theorem Voice.phase_of_released {v : Voice} (hb : v.amp.bound = true) (hr : v.released = true) :
    v.phase = .releasing := by
  simp [Voice.phase, hb, hr]

/-- Settles O54: the tick takes the `AMP` block's request into the flag, and a requesting block is bound, so that the
released voice is not IDLE. -/
theorem releaseRequestReleasesVoice : Obligations.ReleaseRequestReleasesVoice := by
  intro d v w hv hdue h
  obtain ⟨a, p, ha, _, rfl⟩ := Voice.controlTick_due hdue h
  have ha_pulses : a.PulsesConsistent := execAdvance_keeps_pulsesConsistent hv.amp.pulses ha
  refine ⟨fun hq => ?_, Bool.or_eq_true_iff⟩
  have hreleased : (v.released || a.rreqQ) = true := Bool.or_eq_true_iff.mpr (.inr hq)
  exact ⟨hreleased, Voice.phase_of_released (ha_pulses.bound_of_request hq) hreleased⟩

/-- Settles O53: `release()` writes the flag, and the next due tick sends that flag to the `AMP` block it left alone. -/
theorem releaseOnlySetsTheFlag : Obligations.ReleaseOnlySetsTheFlag := by
  intro d v
  refine ⟨{ v with released := true }, rfl, rfl, rfl, fun w' hdue h => ?_⟩
  obtain ⟨a, p, ha, _, rfl⟩ := Voice.controlTick_due hdue h
  exact ha

end Sys2Proof.Machine
end

section
/-! PROOF. The unbound block (60_exceptions.md R93, 70_reset_and_hazards.md R108): which commands it runs, and which fault. -/

namespace Sys2Proof.Machine

theorem runsUnbound_iff (i : Instr) : runsUnbound i = true ↔ i = .nop ∨ ∃ table l e, i = .init table l e := by
  cases i <;> simp [runsUnbound]

/-- R93: an unbound block goes on with every command, and it faults if and only if the command needs a bound envelope. -/
theorem exec_unbound (i : Instr) {s : State} (hf : s.faultQ = false) (hb : s.bound = false) :
    ∃ t, exec i s = .next t ∧ t.faultQ = !runsUnbound i := by
  cases i with
  | nop => exact ⟨_, execNop_live hf, hf⟩
  | init table l e => exact ⟨_, execInit_live hf table l e, hf⟩
  | advance r => exact ⟨_, execAdvance_unbound hf hb r, rfl⟩
  | eval f => exact ⟨_, execEval_unbound hf hb f, rfl⟩

/-- Settles O14: the reset block is an unbound, unfaulted one. -/
theorem resetBlockAcceptsNopAndInit : Obligations.ResetBlockAcceptsNopAndInit := by
  intro p i
  obtain ⟨t, ht, hfault⟩ := exec_unbound i (State.resetOf_faultQ p) (State.resetOf_bound p)
  refine ⟨State.resetOf_bound p, t, ht, ?_⟩
  rw [hfault, ← runsUnbound_iff, Bool.not_eq_false']

end Sys2Proof.Machine
end

section
/-! PROOF. The encodings (30_encoding.md): one equation of `decode` per CMD code, the three fields of an ENTRY word, and the
inverse laws of the encoders. -/

namespace Sys2Proof

/-! ### Commands -/

theorem decode_of_code_nop {q : Ports} (h : q.cmd = 0b00#2) (p : Params) : decode p q = .nop := if_pos h

theorem decode_of_code_init {q : Ports} (h : q.cmd = 0b01#2) (p : Params) :
    decode p q = .init (q.tableI.onPort p) q.loopI q.endI := by simp [decode, h]

theorem decode_of_code_advance {q : Ports} (h : q.cmd = 0b10#2) (p : Params) : decode p q = .advance q.releasedI := by
  simp [decode, h]

theorem decode_of_code_eval {q : Ports} (h : q.cmd = 0b11#2) (p : Params) :
    decode p q = .eval (q.fracI % 2 ^ p.fracW) := by simp [decode, h]

/-- The four codes of R54. -/
theorem cmdCode_cases : ∀ c : CmdCode, c = 0b00#2 ∨ c = 0b01#2 ∨ c = 0b10#2 ∨ c = 0b11#2 := by decide

/-- An operand that fits its port comes back from it. -/
theorem decode_encode {p : Params} {i : Instr} (h : i.wf p = true) : decode p (encode i) = i := by
  cases i with
  | nop => rfl
  | init table l e =>
    have htable : table.onPort p = table := Table.onPort_of_wf p table h
    rw [decode_of_code_init rfl]
    simp only [encode, htable]
  | advance r => rfl
  | eval f =>
    have hfrac : f % 2 ^ p.fracW = f := Nat.mod_eq_of_lt ((Instr.wf_eval p f).mp h)
    rw [decode_of_code_eval rfl]
    simp only [encode, hfrac]

/-- Settles O6: `decode_encode`. -/
theorem decodeOfEncodeIsCommand : Obligations.DecodeOfEncodeIsCommand := fun _ _ h => decode_encode h

/-- What the ports decode to fits them: a table and a fraction are cut to their ports. -/
theorem decode_wf (p : Params) (q : Ports) : (decode p q).wf p = true := by
  obtain h | h | h | h := cmdCode_cases q.cmd
  · rw [decode_of_code_nop h]; rfl
  · rw [decode_of_code_init h]; exact Table.onPort_wf p q.tableI
  · rw [decode_of_code_advance h]; rfl
  · rw [decode_of_code_eval h, Instr.wf_eval]; exact Nat.mod_lt _ (by positivity)

/-- Settles O5: `decode_wf`. -/
theorem decodedCommandFitsPorts : Obligations.DecodedCommandFitsPorts := decode_wf

/-- Settles O3: one equation of `decode` per code, and the words of the table port one by one. -/
theorem decodePicksCommandByCode : Obligations.DecodePicksCommandByCode := by
  intro p q
  refine ⟨fun h => decode_of_code_nop h p, fun h => ⟨_, decode_of_code_init h p, ?_⟩,
    fun h => decode_of_code_advance h p, fun h => decode_of_code_eval h p⟩
  exact Table.onPort_getElem p q.tableI

/-- The idle table port carries its 32 zero words at any width. -/
theorem Table.onPort_zero (p : Params) : Table.zero.onPort p = Table.zero :=
  Table.onPort_of_wf p _ (Laws.EncodedFitsPorts.zero_wf p)

/-- Settles O1: the equation of `decode` for each of the four codes, at operand ports that carry 0. -/
theorem commandWordsDecode : Obligations.CommandWordsDecode := by
  refine ⟨rfl, ?_, rfl, rfl⟩
  simp only [decodeTableWord, decode_of_code_init (q := portsOfWord 0b01) rfl]
  exact congrArg (fun t : Table => some (Instr.init t 0#6 0#6)) (Table.onPort_zero _)

/-! ### ENTRY words -/

theorem bitField_eff (w : Nat) : bitField w 0 2 = w % 4 := by simp [bitField]

theorem bitField_sm (w : Nat) : bitField w 2 1 = w / 4 % 2 := by simp [bitField]

theorem bitField_mag (w n : Nat) : bitField w 3 n = w / 8 % 2 ^ n := by simp [bitField]

/-- The entry of a word, field by field (R56). -/
theorem decodeEntry_eq (p : Params) (w : Nat) :
    decodeEntry p w = ⟨sext p.magW (w / 8 % 2 ^ p.magW), decodeEffect (w % 4), w / 4 % 2 == 1⟩ := by
  simp only [decodeEntry, bitField_eff, bitField_sm, bitField_mag]

/-- Every word's magnitude is in range (R58). -/
theorem decodeEntry_wf {p : Params} (hp : p.wf = true) (w : Nat) : (decodeEntry p w).wf p = true := by
  obtain ⟨hmag, _⟩ := p.wf_iff.mp hp
  rw [Entry.wf_iff, decodeEntry_eq]
  exact sext_range (by omega) (Nat.mod_lt _ (by positivity))

/-- `sext` changes a pattern by a multiple of `2^n` only. -/
theorem sext_emod {n v : Nat} (hv : v < 2 ^ n) : sext n v % 2 ^ n = v := by
  have hnonneg : 0 ≤ sext n v % 2 ^ n := Int.emod_nonneg _ (by positivity)
  rw [← Int.toNat_of_nonneg hnonneg]
  exact congrArg Nat.cast (toPattern_sext hv)

/-- Settles O4: the fields of `decodeEntry_eq`, the effect by its code and the magnitude by the laws of `sext`. -/
theorem entryFieldsAsLaidOut : Obligations.EntryFieldsAsLaidOut := by
  intro p w hp
  have hrange := (Entry.wf_iff p _).mp (decodeEntry_wf hp w)
  refine ⟨?_, ?_, ?_, ?_, ?_, ?_, hrange⟩
  · intro h; rw [decodeEntry_eq, h]; rfl
  · intro h; rw [decodeEntry_eq, h]; rfl
  · intro h; rw [decodeEntry_eq, h]; rfl
  · intro h; rw [decodeEntry_eq, h]; rfl
  · rw [decodeEntry_eq]; exact beq_iff_eq
  · rw [decodeEntry_eq]; exact sext_emod (Nat.mod_lt _ (by positivity))

theorem two_pow_entryW (p : Params) : 2 ^ p.entryW = 8 * 2 ^ p.magW := by
  rw [Params.entryW, pow_add, Nat.mul_comm]; norm_num

theorem encodeEntry_mod_four (p : Params) (e : Entry) : encodeEntry p e % 4 = effectCode e.eff := by
  have heff := effectCode_lt e.eff
  unfold encodeEntry
  omega

theorem encodeEntry_sm (p : Params) (e : Entry) : encodeEntry p e / 4 % 2 = e.sm.toNat := by
  have heff := effectCode_lt e.eff
  have hsm := e.sm.toNat_lt
  unfold encodeEntry
  omega

theorem encodeEntry_div_eight (p : Params) (e : Entry) : encodeEntry p e / 8 = toPattern p.magW e.mag := by
  have heff := effectCode_lt e.eff
  have hsm := e.sm.toNat_lt
  unfold encodeEntry
  omega

/-- The encoder's word fits `MAG_W + 3` bits, whatever the magnitude. -/
theorem encodeEntry_lt (p : Params) (e : Entry) : encodeEntry p e < 2 ^ p.entryW := by
  have hpat := toPattern_lt p.magW e.mag
  rw [← encodeEntry_div_eight p e] at hpat
  rw [two_pow_entryW]
  omega

/-- Settles O7: the three fields of the encoder's word read back, the magnitude as it is in range. -/
theorem decodeOfEncodeIsEntry : Obligations.DecodeOfEncodeIsEntry := by
  intro p e hp he
  obtain ⟨hmag, _⟩ := p.wf_iff.mp hp
  obtain ⟨hmin, hmax⟩ := (Entry.wf_iff p e).mp he
  refine ⟨?_, encodeEntry_lt p e⟩
  rw [decodeEntry_eq, encodeEntry_mod_four, encodeEntry_sm, encodeEntry_div_eight,
    Nat.mod_eq_of_lt (toPattern_lt p.magW e.mag), sext_toPattern (by omega) hmin hmax, decodeEffect_effectCode]
  cases e with
  | mk mag eff sm => cases sm <;> rfl

/-- Settles O8: each field of the word is written back from what it decodes to, and the three make up the word. -/
theorem encodeOfDecodeIsEntryWord : Obligations.EncodeOfDecodeIsEntryWord := by
  intro p w _ hw
  rw [two_pow_entryW] at hw
  have hpat : w / 8 < 2 ^ p.magW := by omega
  have hsm : (w / 4 % 2 == 1).toNat = w / 4 % 2 := by
    obtain h | h := Nat.mod_two_eq_zero_or_one (w / 4) <;> rw [h] <;> rfl
  have hword : encodeEntry p (decodeEntry p w) = w % 4 + 4 * (w / 4 % 2) + 8 * (w / 8) := by
    rw [decodeEntry_eq, encodeEntry, effectCode_decodeEffect (Nat.mod_lt w (by decide)), hsm,
      Nat.mod_eq_of_lt hpat, toPattern_sext hpat]
  omega

/-- Settles O2: each of the five words evaluated. -/
theorem entryWordsDecode : Obligations.EntryWordsDecode := by
  unfold Obligations.EntryWordsDecode
  decide

end Sys2Proof
end

section
/-! PROOF. The ramp and its interpolation (40_sequencing.md R71, R72; 41_evaluate.md R85, R86): the ramp's rule, its ends in
the magnitude range, and the floor between them. -/

namespace Sys2Proof.Machine

/-! ### The ramp -/

/-- `ramp` follows the rule of R71 and R72, effect by effect. -/
theorem rampRule_ramp (k : TrackKind) (e : Entry) (held : Int) : RampRule k e held (ramp k e held).1 (ramp k e held).2 := by
  constructor
  · intro he; simp [ramp, he]
  · intro he; simp [ramp, he]
  · intro he; simp [ramp, he]
  · intro he hk; simp [ramp, he, hk]
  · intro he hk; simp [ramp, he, hk]

/-- The rule of R71 and R72 leaves no choice: it gives what `ramp` gives. -/
theorem RampRule.eq_ramp {k : TrackKind} {e : Entry} {held b d : Int} (h : RampRule k e held b d) :
    b = (ramp k e held).1 ∧ d = (ramp k e held).2 := by
  cases he : e.eff with
  | attack => simpa [ramp, he] using h.attack he
  | decay => simpa [ramp, he] using h.decay he
  | slide => simpa [ramp, he] using h.slide he
  | step =>
    cases k with
    | pitch => simpa [ramp, he] using h.stepPitch he rfl
    | amp => simpa [ramp, he] using h.stepAmp he rfl

/-- 0 is a magnitude at every width. -/
theorem inMagRange_zero (p : Params) : inMagRange p 0 := by
  have hp : (0 : Int) < 2 ^ (p.magW - 1) := by positivity
  simp only [inMagRange, Params.magMin, Params.magMax]
  omega

theorem inMagRange_decodeEntry {p : Params} (hp : p.wf = true) (w : Nat) : inMagRange p (decodeEntry p w).mag :=
  (Entry.wf_iff p _).mp (decodeEntry_wf hp w)

/-- Both ends of an entry's ramp are 0, the magnitude or the held value, so they are magnitudes. -/
theorem inMagRange_ramp {p : Params} {e : Entry} {held : Int} (k : TrackKind) (he : inMagRange p e.mag)
    (hheld : inMagRange p held) :
    inMagRange p (ramp k e held).1 ∧ inMagRange p ((ramp k e held).1 + (ramp k e held).2) := by
  have hzero := inMagRange_zero p
  cases heff : e.eff with
  | attack => simpa [ramp, heff] using ⟨hzero, he⟩
  | decay => simpa [ramp, heff] using ⟨he, hzero⟩
  | slide => simpa [ramp, heff] using ⟨hheld, he⟩
  | step =>
    cases k with
    | pitch => simpa [ramp, heff] using he
    | amp => simpa [ramp, heff] using hheld

/-- R37 (c) follows from (a) and (b). -/
theorem State.RampInRange.of_ends {s : State} (hbase : inMagRange s.params s.base)
    (hheld : inMagRange s.params (s.base + s.delta)) : s.RampInRange := by
  obtain ⟨hb1, hb2⟩ := hbase
  obtain ⟨hh1, hh2⟩ := hheld
  exact ⟨⟨hb1, hb2⟩, ⟨hh1, hh2⟩, by omega, by omega⟩

/-! ### The floor -/

theorem floorShift_mono {a b : Int} (h : a ≤ b) (k : Nat) : floorShift a k ≤ floorShift b k :=
  Int.ediv_le_ediv (by positivity) h

@[simp] theorem floorShift_zero (k : Nat) : floorShift 0 k = 0 := Int.zero_ediv _

theorem floorShift_mul_two_pow (a : Int) (k : Nat) : floorShift (a * 2 ^ k) k = a :=
  Int.mul_ediv_cancel a (by positivity)

/-- R86 (d), rising. -/
theorem interpolate_mono {delta : Int} (hd : 0 ≤ delta) {f f' : Nat} (h : f ≤ f') (p : Params) (base : Int) :
    interpolate p base delta f ≤ interpolate p base delta f' :=
  Int.add_le_add_left (floorShift_mono (Int.mul_le_mul_of_nonneg_left (by exact_mod_cast h) hd) p.fracW) base

/-- R86 (d), falling. -/
theorem interpolate_anti {delta : Int} (hd : delta ≤ 0) {f f' : Nat} (h : f ≤ f') (p : Params) (base : Int) :
    interpolate p base delta f' ≤ interpolate p base delta f :=
  Int.add_le_add_left (floorShift_mono (Int.mul_le_mul_of_nonpos_left hd (by exact_mod_cast h)) p.fracW) base

/-- The fraction 1, which no port carries, would give the end of the ramp. -/
theorem interpolate_fraction_one (p : Params) (base delta : Int) :
    interpolate p base delta (2 ^ p.fracW) = base + delta := by
  unfold interpolate
  push_cast
  rw [floorShift_mul_two_pow]

/-- R86 (c): monotone from fraction 0, which gives `base`, to fraction 1, which gives `base + delta`. -/
theorem interpolate_between {p : Params} {f : Nat} (hf : f < 2 ^ p.fracW) (base delta : Int) :
    min base (base + delta) ≤ interpolate p base delta f ∧ interpolate p base delta f ≤ max base (base + delta) := by
  have hstart := interpolate_fraction_zero p base delta
  have hend := interpolate_fraction_one p base delta
  rcases Int.le_total 0 delta with hd | hd
  · have h1 := interpolate_mono hd f.zero_le p base
    have h2 := interpolate_mono hd hf.le p base
    omega
  · have h1 := interpolate_anti hd f.zero_le p base
    have h2 := interpolate_anti hd hf.le p base
    omega

theorem State.RampInRange.interpolate {s : State} (hs : s.RampInRange) {f : Nat} (hf : f < 2 ^ s.params.fracW) :
    inMagRange s.params (interpolate s.params s.base s.delta f) := by
  obtain ⟨hlow, hhigh⟩ := interpolate_between hf s.base s.delta
  obtain ⟨hb1, hb2⟩ := hs.base
  obtain ⟨hh1, hh2⟩ := hs.held
  constructor <;> omega

end Sys2Proof.Machine
end

section
/-! PROOF. The block's invariant (10_state.md section 4): each command keeps it, a step keeps it and finds a next state, and so
does a run; a bound block stays bound and unfaulted, a faulted one keeps its registers (60_exceptions.md R91, R92). -/

namespace Sys2Proof.Machine

/-! ### What each update leaves of the invariant -/

/-- The invariant of a state that has the track and the fault registers of one in the invariant: what it says of `value_q`
and of the pulses is left to show, and of the ports it says nothing. -/
theorem State.Inv.of_sameTrack {s t : State} (hs : s.Inv)
    (ht : t = { s with
      valueQ := t.valueQ, termQ := t.termQ, rreqQ := t.rreqQ, ports := t.ports, schedule := t.schedule })
    (hv : inMagRange s.params t.valueQ) (hp : t.PulsesConsistent) : t.Inv := by
  have hreport : t.termQ = true → s.finished = true := by
    have hfin : t.finished = s.finished := by rw [ht]; rfl
    rw [← hfin]; exact hp.report
  have hrequest : t.rreqQ = true → t.termQ = true ∧ s.params.kind = .amp := by
    have hparams : t.params = s.params := by rw [ht]
    rw [← hparams]; exact hp.request
  rw [ht]
  exact {
    params := hs.params
    table := hs.table
    ramp := fun hb => ⟨(hs.ramp hb).base, (hs.ramp hb).held, (hs.ramp hb).delta⟩
    cursor := fun hb => ⟨(hs.cursor hb).cursor, (hs.cursor hb).endPos, (hs.cursor hb).endMax⟩
    value := hv
    fault := ⟨hs.fault.clear, hs.fault.reason, hs.fault.unbound⟩
    pulses := ⟨hreport, hrequest⟩
    frozen := hs.frozen }

theorem State.Inv.onPorts {s : State} (hs : s.Inv) (q : Ports) (qs : List Ports) : (s.onPorts q qs).Inv :=
  hs.of_sameTrack rfl hs.value ⟨hs.pulses.report, hs.pulses.request⟩

theorem State.presentNext_eq_onPorts (s : State) :
    s.presentNext = s.onPorts s.presentNext.ports s.presentNext.schedule := s.presentNext_eq

theorem State.Inv.presentNext {s : State} (hs : s.Inv) : s.presentNext.Inv := by
  rw [State.presentNext_eq_onPorts]
  exact hs.onPorts _ _

/-- With both pulses at 0 there is nothing to say of them. -/
theorem State.pulsesConsistent_clear (s : State) : (s.setPulses false false).PulsesConsistent := ⟨by simp, by simp⟩

theorem State.Inv.clearPulses {s : State} (hs : s.Inv) : (s.setPulses false false).Inv :=
  hs.of_sameTrack rfl hs.value s.pulsesConsistent_clear

theorem State.Inv.eval {s : State} (hs : s.Inv) {v : Int} (hv : inMagRange s.params v) :
    ((s.setValue v).setPulses false false).Inv :=
  hs.of_sameTrack rfl hv (s.setValue v).pulsesConsistent_clear

/-- Only an unbound block raises the fault, so ramp and cursor are not asked about. -/
theorem State.Inv.raiseUnbound {s : State} (hs : s.Inv) (hb : s.bound = false) {c : CmdCode}
    (hc : c = 0b10#2 ∨ c = 0b11#2) : (s.raiseUnbound c).Inv where
  params := hs.params
  table := hs.table
  ramp h := absurd (hb.symm.trans h) Bool.false_ne_true
  cursor h := absurd (hb.symm.trans h) Bool.false_ne_true
  value := hs.value
  fault := ⟨fun h => absurd h.symm Bool.false_ne_true, fun _ => hc.imp (congrArg _) (congrArg _), fun _ => hb⟩
  pulses := ⟨hs.pulses.report, hs.pulses.request⟩
  frozen := hs.frozen

/-- Classifying an entry at a step of a track establishes the ramp's part of the invariant from a held value in range. -/
theorem State.inv_classify {s : State} {held : Int} (w : Nat) (hp : s.params.wf = true) (ht : Memory.wf s.params s.T)
    (hheld : inMagRange s.params held) (hc : s.CursorInRange) (hplaying : s.finished = false)
    (hv : inMagRange s.params s.valueQ) (hf : s.FaultConsistent) :
    ((s.classify w held).setPulses false false).Inv where
  params := hp
  table := ht
  ramp _ := by
    obtain ⟨hbase, hend⟩ := inMagRange_ramp s.params.kind (inMagRange_decodeEntry hp w) hheld
    exact .of_ends hbase hend
  cursor _ := ⟨hc.cursor, hc.endPos, hc.endMax⟩
  value := hv
  fault := ⟨hf.clear, hf.reason, hf.unbound⟩
  pulses := State.pulsesConsistent_clear _
  frozen h := absurd (hplaying.symm.trans h) Bool.false_ne_true

theorem State.Inv.init {s : State} (hs : s.Inv) (hf : s.faultQ = false) {table : Table}
    (ht : Memory.wf s.params table) (l e : Index) :
    ((((s.bind table l e).setCursor 0#6).classify table[0] 0).setPulses false false).Inv := by
  obtain ⟨hpos, hmax⟩ := normEnd_range e
  refine State.inv_classify _ hs.params ht (inMagRange_zero _) ⟨Nat.zero_le _, hpos, hmax⟩ ?_ hs.value ?_
  · have hne : 0#6 ≠ normEnd e := fun h => absurd (congrArg BitVec.toNat h) (Nat.ne_of_lt hpos)
    simpa [State.finished] using hne
  · have hlive : s.faultQ ≠ true := by simp [hf]
    exact ⟨hs.fault.clear, fun h => absurd h hlive, fun h => absurd h hlive⟩

theorem toNat_ofNat_of_nextMove {s : State} {i : Nat} (hE : s.E.toNat ≤ 32) (hm : s.nextMove = .enter i) :
    (BitVec.ofNat 6 i).toNat = i := by
  have hi := State.nextMove_lt hm
  rw [BitVec.toNat_ofNat, Nat.mod_eq_of_lt (by omega)]

theorem State.Inv.enter {s : State} (hs : s.Inv) (hb : s.bound = true) {i : Nat} (hm : s.nextMove = .enter i)
    (w : Nat) : (((s.setCursor (BitVec.ofNat 6 i)).classify w s.held).setPulses false false).Inv := by
  obtain ⟨_, hpos, hmax⟩ := hs.cursor hb
  have hi : i < s.E.toNat := State.nextMove_lt hm
  have hnat := toNat_ofNat_of_nextMove hmax hm
  refine State.inv_classify _ hs.params hs.table (hs.ramp hb).held ⟨?_, hpos, hmax⟩ ?_ hs.value ?_
  · exact hnat.trans_le hi.le
  · have hne : BitVec.ofNat 6 i ≠ s.E := fun h => hi.ne (hnat.symm.trans (congrArg BitVec.toNat h))
    simpa [State.finished] using fun _ => hne
  · exact ⟨hs.fault.clear, hs.fault.reason, hs.fault.unbound⟩

/-- R79: the request is an `AMP` block's that is not released. -/
theorem releaseRequest_iff (k : TrackKind) (r : Bool) : releaseRequest k r = true ↔ k = .amp ∧ r = false := by
  simp [releaseRequest]

theorem State.Inv.park {s : State} (hs : s.Inv) (hb : s.bound = true) (r : Bool) :
    (s.park.setPulses true (releaseRequest s.params.kind r)).Inv where
  params := hs.params
  table := hs.table
  ramp _ := by
    have hheld : inMagRange s.params s.held := (hs.ramp hb).held
    exact .of_ends hheld (by simpa using hheld)
  cursor _ := ⟨le_rfl, (hs.cursor hb).endPos, (hs.cursor hb).endMax⟩
  value := hs.value
  fault := ⟨hs.fault.clear, hs.fault.reason, hs.fault.unbound⟩
  pulses := ⟨fun _ => by simp [hb], fun hq => ⟨rfl, ((releaseRequest_iff _ r).mp hq).1⟩⟩
  frozen _ := rfl

/-- R37, R107: the reset state of a well-formed block meets the invariant. -/
theorem State.inv_resetOf {p : Params} (hp : p.wf = true) : (State.resetOf p).Inv where
  params := hp
  table := Memory.wf_reset p
  ramp h := absurd h Bool.false_ne_true
  cursor h := absurd h Bool.false_ne_true
  value := inMagRange_zero p
  fault := ⟨fun _ => rfl, fun h => absurd h Bool.false_ne_true, fun h => absurd h Bool.false_ne_true⟩
  pulses := ⟨fun h => absurd h Bool.false_ne_true, fun h => absurd h Bool.false_ne_true⟩
  frozen _ := rfl

/-- Settles O13: `State.inv_resetOf`. -/
theorem resetStateMeetsInvariant : Obligations.ResetStateMeetsInvariant := fun _ hp => State.inv_resetOf hp

/-! ### Commands and steps keep it -/

theorem execAdvance_keeps_inv {r : Bool} {s t : State} (hs : s.Inv) (h : execAdvance r s = .next t) : t.Inv := by
  obtain ⟨_, rfl⟩ | ⟨_, hb, rfl⟩ | ⟨_, _, _, rfl⟩ | ⟨_, hb, _, i, w, hm, _, rfl⟩ | ⟨_, hb, _, _, rfl⟩ :=
    execAdvance_cases h
  · exact hs
  · exact hs.raiseUnbound hb (.inl rfl)
  · exact hs.clearPulses
  · exact hs.enter hb hm w
  · exact hs.park hb r

theorem execEval_keeps_inv {f : Nat} {s t : State} (hs : s.Inv) (hf : f < 2 ^ s.params.fracW)
    (h : execEval f s = .next t) : t.Inv := by
  obtain ⟨_, rfl⟩ | ⟨_, hb, rfl⟩ | ⟨_, hb, rfl⟩ := execEval_cases h
  · exact hs
  · exact hs.raiseUnbound hb (.inr rfl)
  · exact hs.eval ((hs.ramp hb).interpolate hf)

/-- A command whose operands fit the block's ports keeps the invariant. -/
theorem exec_keeps_inv {i : Instr} {s t : State} (hs : s.Inv) (hi : i.wf s.params = true) (h : exec i s = .next t) :
    t.Inv := by
  obtain ⟨_, rfl⟩ | ⟨hf, ⟨_, rfl⟩ | ⟨tb, l, e, rfl, rfl⟩ | ⟨r, rfl, ha⟩ | ⟨f, rfl, he⟩⟩ := exec_cases h
  · exact hs
  · exact hs.clearPulses
  · exact hs.init hf hi l e
  · exact execAdvance_keeps_inv hs ha
  · exact execEval_keeps_inv hs ((Instr.wf_eval _ f).mp hi) he

theorem State.Inv.applyReset {s : State} (hs : s.Inv) : s.applyReset.Inv :=
  (State.inv_resetOf hs.params).onPorts s.ports s.schedule

/-- A step keeps the invariant: a reset step by the reset state, any other as the fetched operands fit their ports. -/
theorem step_keeps_inv {s t : State} (hs : s.Inv) (h : step s = .next t) : t.Inv := by
  obtain ⟨_, rfl⟩ | ⟨_, u, hu, rfl⟩ := step_cases h
  · exact hs.applyReset.presentNext
  · exact (exec_keeps_inv hs (decode_wf s.params s.ports) hu).presentNext

/-- Settles O42: `step_keeps_inv`. -/
theorem stepKeepsInvariant : Obligations.StepKeepsInvariant := fun _ _ hs h => step_keeps_inv hs h

/-! ### Steps find a next state -/

/-- A step with `rst = 0` (R7). -/
theorem step_of_not_rst {s : State} (h : s.ports.rst = false) :
    step s = andThen (exec s.fetch s) fun t => .next t.presentNext := by simp [step, h]

/-- A step with `rst = 1` (R106). -/
theorem step_of_rst {s : State} (h : s.ports.rst = true) : step s = .next s.applyReset.presentNext := by
  simp [step, h]

/-- Every command has a next state in the invariant: a bound block has `E` at most 32, an unbound one reads no table. -/
theorem State.Inv.exists_exec_next {s : State} (hs : s.Inv) (i : Instr) : ∃ t, exec i s = .next t := by
  cases hb : s.bound with
  | true => exact Machine.exists_exec_next i (hs.cursor hb).endMax
  | false =>
    cases hf : s.faultQ with
    | true => exact ⟨s, exec_of_faulted i hf⟩
    | false =>
      obtain ⟨t, ht, _⟩ := exec_unbound i hf hb
      exact ⟨t, ht⟩

theorem State.Inv.exists_step_next {s : State} (hs : s.Inv) : ∃ t, step s = .next t := by
  cases hr : s.ports.rst with
  | true => exact ⟨_, step_of_rst hr⟩
  | false =>
    obtain ⟨t, ht⟩ := hs.exists_exec_next s.fetch
    exact ⟨t.presentNext, by rw [step_of_not_rst hr, ht, andThen_next]⟩

/-- A predicate from which every step finds a next state that has it holds at the end of every run. -/
theorem run_keeps {P : State → Prop} (hstep : ∀ s, P s → ∃ t, step s = .next t ∧ P t) (k : Nat) {s : State} (hs : P s) :
    ∃ t, Host.Core.run core k s = .next t ∧ P t := by
  induction k generalizing s with
  | zero => exact ⟨s, rfl, hs⟩
  | succ k ih =>
    obtain ⟨u, hu, hPu⟩ := hstep s hs
    rw [core_run_succ k hu]
    exact ih hPu

/-- Settles O43: each step of the run has a next state in the invariant, and keeps it. -/
theorem runsFromInvariantNeverStop : Obligations.RunsFromInvariantNeverStop := by
  intro s k hs
  refine run_keeps (fun u hu => ?_) k hs
  obtain ⟨t, ht⟩ := hu.exists_step_next
  exact ⟨t, ht, step_keeps_inv hu ht⟩

/-! ### Runs without reset -/

/-- The ports' next values come from the schedule, or are idle. -/
theorem State.NoReset.presentNext {s : State} (hs : s.NoReset) : s.presentNext.NoReset := by
  unfold State.presentNext
  split
  · next h => exact ⟨rfl, hs.later⟩
  · next q qs h => exact ⟨hs.later q (by simp [h]), fun q' hq' => hs.later q' (by simp [h, hq'])⟩

/-- No command touches the coming port values. -/
theorem exec_keeps_noReset {i : Instr} {s t : State} (hs : s.NoReset) (h : exec i s = .next t) : t.NoReset := by
  obtain ⟨_, hports, hschedule⟩ := exec_interface h
  exact ⟨by rw [hports]; exact hs.now, by rw [hschedule]; exact hs.later⟩

/-- No command unbinds the block (R23). -/
theorem exec_keeps_bound {i : Instr} {s t : State} (hb : s.bound = true) (h : exec i s = .next t) : t.bound = true := by
  obtain ⟨_, rfl⟩ | ⟨_, ⟨_, rfl⟩ | ⟨_, _, _, _, rfl⟩ | ⟨r, rfl, ha⟩ | ⟨f, rfl, he⟩⟩ := exec_cases h
  · exact hb
  · exact hb
  · rfl
  · obtain ⟨_, rfl⟩ | ⟨_, _, rfl⟩ | ⟨_, _, _, rfl⟩ | ⟨_, _, _, _, _, _, _, rfl⟩ | ⟨_, _, _, _, rfl⟩ :=
      execAdvance_cases ha <;> exact hb
  · obtain ⟨_, rfl⟩ | ⟨_, _, rfl⟩ | ⟨_, _, rfl⟩ := execEval_cases he <;> exact hb

/-- A bound, unfaulted block in the invariant, with no reset to come. -/
structure State.Safe (s : State) : Prop where
  inv     : s.Inv
  bound   : s.bound = true
  live    : s.faultQ = false
  noReset : s.NoReset

/-- R91, R94: a step of a safe block is its fetched command, which leaves it safe. -/
theorem State.Safe.exists_step_next {s : State} (hs : s.Safe) : ∃ t, step s = .next t ∧ t.Safe := by
  obtain ⟨t, ht⟩ := hs.inv.exists_exec_next s.fetch
  have hstep : step s = .next t.presentNext := by rw [step_of_not_rst hs.noReset.now, ht, andThen_next]
  obtain ⟨hfault, _⟩ := exec_keeps_fault (.inl hs.bound) ht
  exact ⟨_, hstep, step_keeps_inv hs.inv hstep, by simpa using exec_keeps_bound hs.bound ht,
    by simpa using hfault.trans hs.live, (exec_keeps_noReset hs.noReset ht).presentNext⟩

/-- Settles O44: the block is safe along the whole run. -/
theorem boundBlockRunsSafely : Obligations.BoundBlockRunsSafely := by
  intro s k hs hb hf hr
  obtain ⟨t, ht, hsafe⟩ := run_keeps (fun _ => State.Safe.exists_step_next) k ⟨hs, hb, hf, hr⟩
  exact ⟨t, ht, hsafe.live⟩

/-- A step of a faulted block that is not reset moves the ports on and nothing else (R67, R92). -/
theorem step_of_faulted {s : State} (hf : s.faultQ = true) (hr : s.ports.rst = false) :
    step s = .next s.presentNext := by
  rw [step_of_not_rst hr, exec_of_faulted s.fetch hf, andThen_next]

/-- A state with the registers of `s` on some other port values, none of which resets the block. -/
structure State.SameRegisters (s t : State) : Prop where
  registers : t = s.onPorts t.ports t.schedule
  noReset   : t.NoReset

/-- Settles O45: the run keeps the registers, as each step finds the fault still there. -/
theorem faultIsStickyUntilReset : Obligations.FaultIsStickyUntilReset := by
  intro s k hf hr
  have hstep : ∀ t, s.SameRegisters t → ∃ u, step t = .next u ∧ s.SameRegisters u := by
    intro t ht
    have hft : t.faultQ = true := by rw [ht.registers]; exact hf
    refine ⟨_, step_of_faulted hft ht.noReset.now, ?_, ht.noReset.presentNext⟩
    rw [State.presentNext_eq_onPorts, ht.registers]
    rfl
  obtain ⟨t, ht, hsame⟩ := run_keeps hstep k ⟨rfl, hr⟩
  exact ⟨t, ht, hsame.registers⟩

end Sys2Proof.Machine
end

section
/-! PROOF. The driver's events (70_reset_and_hazards.md section 3): what each event sends to the voice's two blocks, the
invariant of a voice along every list of events, and the channels beside each other (60_exceptions.md R103). -/

namespace Sys2Proof.Machine

/-! ### A command sent to a block -/

theorem issue_eq_step (i : Instr) (s : State) :
    issue i s = step (s.onPorts (encode i) (s.ports :: s.schedule)) := rfl

/-- A command whose operands fit is run as it is. -/
theorem issue_of_wf {i : Instr} {s : State} (h : i.wf s.params = true) : issue i s = exec i s :=
  issue_eq_exec (decode_encode h)

theorem step_keeps_params {s t : State} (h : step s = .next t) : t.params = s.params := by
  obtain ⟨_, rfl⟩ | ⟨_, u, hu, rfl⟩ := step_cases h
  · simp
  · obtain ⟨hparams, _, _⟩ := exec_interface hu
    simpa using hparams

/-- Every command the driver sends goes through, and leaves the same block in its invariant. -/
theorem State.Inv.exists_issue_next {s : State} (hs : s.Inv) (i : Instr) :
    ∃ t, issue i s = .next t ∧ t.Inv ∧ t.params = s.params := by
  have hon : (s.onPorts (encode i) (s.ports :: s.schedule)).Inv := hs.onPorts _ _
  obtain ⟨t, ht⟩ := hon.exists_step_next
  exact ⟨t, ht, step_keeps_inv hon ht, (step_keeps_params ht :)⟩

/-! ### Triggers -/

/-- R113: a trigger that reloads sends INIT of its own envelope to each block. -/
theorem Voice.trigger_of_reloads {d : DriverParams} {g : Bool} {v : Voice} (h : v.reloads d g = true) (a p : Envelope)
    (m : Nat) : v.handle d (.trigger g a p m) =
      andThen (issue a.init v.amp) fun x => andThen (issue p.init v.pitch) fun y =>
        .next { amp := x, pitch := y, released := false, stepMul := m, ticks := 0 } := if_pos h

/-- R114: any other trigger sends nothing. -/
theorem Voice.trigger_of_not_reloads {d : DriverParams} {g : Bool} {v : Voice} (h : v.reloads d g = false)
    (a p : Envelope) (m : Nat) :
    v.handle d (.trigger g a p m) = .next { v with released := false, stepMul := m, ticks := 0 } :=
  if_neg (ne_true_of_eq_false h)

theorem Voice.reloads_hard (d : DriverParams) (v : Voice) : v.reloads d false = true := rfl

theorem Voice.reloads_glide_iff (d : DriverParams) (v : Voice) :
    v.reloads d true = true ↔ d.glidePathReinit = true ∨ v.amp.bound = false := by simp [Voice.reloads]

/-- Every trigger clears the release flag. -/
theorem Voice.released_of_trigger {d : DriverParams} {v w : Voice} {g : Bool} {a p : Envelope} {m : Nat}
    (h : v.handle d (.trigger g a p m) = .next w) : w.released = false := by
  cases hr : v.reloads d g with
  | true =>
    rw [Voice.trigger_of_reloads hr] at h
    obtain ⟨_, _, h⟩ := andThen_eq_next.mp h
    obtain ⟨_, _, h⟩ := andThen_eq_next.mp h
    cases h; rfl
  | false =>
    rw [Voice.trigger_of_not_reloads hr] at h
    cases h; rfl

/-- INIT has a next state on every block, faulted or not. -/
theorem exists_exec_init_next (table : Table) (l e : Index) (s : State) :
    ∃ t, exec (.init table l e) s = .next t := by
  cases hf : s.faultQ with
  | true => exact ⟨s, exec_of_faulted _ hf⟩
  | false => exact ⟨_, execInit_live hf table l e⟩

/-- Settles O51: the hard trigger's two INITs, whose tables fit, and the cleared flag that the next due tick sends. -/
theorem hardTriggerLoadsBothTracks : Obligations.HardTriggerLoadsBothTracks := by
  intro d v a p m
  constructor
  · intro ha hp
    obtain ⟨ta, hta⟩ := exists_exec_init_next a.table a.loopIndex a.endIndex v.amp
    obtain ⟨tp, htp⟩ := exists_exec_init_next p.table p.loopIndex p.endIndex v.pitch
    have hia : issue a.init v.amp = .next ta := (issue_of_wf (i := a.init) ha).trans hta
    have hip : issue p.init v.pitch = .next tp := (issue_of_wf (i := p.init) hp).trans htp
    refine ⟨ta, tp, hta, htp, ?_⟩
    rw [Voice.trigger_of_reloads (v.reloads_hard d), hia, andThen_next, hip, andThen_next]
  · intro g w h
    have hreleased := Voice.released_of_trigger h
    refine ⟨hreleased, fun w' hdue htick => ?_⟩
    obtain ⟨x, y, hx, _, rfl⟩ := Voice.controlTick_due hdue htick
    rwa [hreleased] at hx

/-- Settles O52: the glide trigger reloads in the two cases of `Voice.reloads_glide_iff`, and then as the hard one does. -/
theorem glideTriggerReloadsOnlyByParameter : Obligations.GlideTriggerReloadsOnlyByParameter := by
  intro d v a p m
  constructor
  · intro hd hb
    have hnot : v.reloads d true = false := by simp [Voice.reloads, hd, hb]
    exact Voice.trigger_of_not_reloads hnot a p m
  · intro h
    rw [Voice.trigger_of_reloads ((v.reloads_glide_iff d).mpr h), Voice.trigger_of_reloads (v.reloads_hard d)]

/-! ### Control ticks and samples -/

theorem advanceDue_iff (d : DriverParams) (m n : Nat) :
    advanceDue d m n = true ↔ d.stepScalesAdvance = false ∨ n % max 1 m = 0 := by simp [advanceDue]

/-- A due tick whose two ADVANCEs go through. -/
theorem Voice.controlTick_of_due {d : DriverParams} {v : Voice} {a p : State}
    (hdue : advanceDue d v.stepMul (v.ticks + 1) = true) (ha : issue (.advance v.released) v.amp = .next a)
    (hp : issue (.advance v.released) v.pitch = .next p) :
    v.handle d .controlTick =
      .next { v with amp := a, pitch := p, ticks := v.ticks + 1, released := v.released || a.rreqQ } := by
  change v.controlTick d = _
  simp only [Voice.controlTick, hdue, if_true, ha, hp, andThen_next]
  rfl

/-- A tick that is not due counts itself and sends nothing. -/
theorem Voice.controlTick_of_not_due {d : DriverParams} {v : Voice}
    (hdue : advanceDue d v.stepMul (v.ticks + 1) = false) :
    v.handle d .controlTick = .next { v with ticks := v.ticks + 1 } := if_neg (ne_true_of_eq_false hdue)

/-- Settles O55: a due tick is `Voice.controlTick_due`, any other sends nothing. -/
theorem controlTickAdvancesBothTracks : Obligations.ControlTickAdvancesBothTracks := by
  intro d v w h
  cases hdue : advanceDue d v.stepMul (v.ticks + 1) with
  | true =>
    obtain ⟨a, p, ha, hp, rfl⟩ := Voice.controlTick_due hdue h
    refine ⟨rfl, rfl, fun _ => ⟨ha, hp⟩, fun hscale hmod => ?_⟩
    obtain hs | hm := (advanceDue_iff d _ _).mp hdue
    · simp [hs] at hscale
    · exact absurd hm hmod
  | false =>
    rw [Voice.controlTick_of_not_due hdue] at h
    cases h
    refine ⟨rfl, rfl, fun hcadence => ?_, fun _ _ => ⟨rfl, rfl, rfl⟩⟩
    exact absurd ((advanceDue_iff d _ _).mpr hcadence) (ne_true_of_eq_false hdue)

/-- A sample, whole: PITCH takes its EVAL, `AMP` its own or nothing. -/
theorem Voice.sample_cases {d : DriverParams} {v w : Voice} {af : Option Nat} {f : Nat}
    (h : v.handle d (.sample af f) = .next w) :
    ∃ a p, w = { v with amp := a, pitch := p } ∧ issue (.eval f) v.pitch = .next p ∧
      (af = none → a = v.amp) ∧ ∀ g, af = some g → issue (.eval g) v.amp = .next a := by
  obtain ⟨a, ha, h⟩ := andThen_eq_next.mp h
  obtain ⟨p, hp, h⟩ := andThen_eq_next.mp h
  cases h
  refine ⟨a, p, rfl, hp, ?_, ?_⟩
  · rintro rfl; cases ha; rfl
  · rintro g rfl; exact ha

/-- Settles O56: the sample's commands, whose fractions fit. -/
theorem sampleEvaluatesTracks : Obligations.SampleEvaluatesTracks := by
  intro d v w af f hf hg h
  obtain ⟨a, p, rfl, hp, hnone, hsome⟩ := Voice.sample_cases h
  refine ⟨?_, hnone, fun g hag => ?_, rfl, rfl, rfl⟩
  · rwa [issue_of_wf ((Instr.wf_eval _ f).mpr hf)] at hp
  · have ha := hsome g hag
    rwa [issue_of_wf ((Instr.wf_eval _ g).mpr (hg g hag))] at ha

/-! ### The voice's invariant -/

/-- The invariant asks of a voice's two blocks alone. -/
theorem Voice.Inv.of_blocks {v w : Voice} (hv : v.Inv) (ha : w.amp.Inv) (hp : w.pitch.Inv)
    (hap : w.amp.params = v.amp.params) (hpp : w.pitch.params = v.pitch.params) : w.Inv :=
  ⟨ha, hp, by rw [hap]; exact hv.ampKind, by rw [hpp]; exact hv.pitchKind⟩

theorem Voice.Inv.exists_trigger_next {v : Voice} (hv : v.Inv) (d : DriverParams) (g : Bool) (a p : Envelope) (m : Nat) :
    ∃ w, v.handle d (.trigger g a p m) = .next w ∧ w.Inv := by
  cases hr : v.reloads d g with
  | true =>
    obtain ⟨x, hx, hxi, hxp⟩ := hv.amp.exists_issue_next a.init
    obtain ⟨y, hy, hyi, hyp⟩ := hv.pitch.exists_issue_next p.init
    exact ⟨_, by rw [Voice.trigger_of_reloads hr, hx, andThen_next, hy, andThen_next], hv.of_blocks hxi hyi hxp hyp⟩
  | false => exact ⟨_, Voice.trigger_of_not_reloads hr a p m, hv.of_blocks hv.amp hv.pitch rfl rfl⟩

theorem Voice.Inv.exists_controlTick_next {v : Voice} (hv : v.Inv) (d : DriverParams) :
    ∃ w, v.handle d .controlTick = .next w ∧ w.Inv := by
  cases hdue : advanceDue d v.stepMul (v.ticks + 1) with
  | true =>
    obtain ⟨x, hx, hxi, hxp⟩ := hv.amp.exists_issue_next (.advance v.released)
    obtain ⟨y, hy, hyi, hyp⟩ := hv.pitch.exists_issue_next (.advance v.released)
    exact ⟨_, Voice.controlTick_of_due hdue hx hy, hv.of_blocks hxi hyi hxp hyp⟩
  | false => exact ⟨_, Voice.controlTick_of_not_due hdue, hv.of_blocks hv.amp hv.pitch rfl rfl⟩

theorem Voice.Inv.exists_sample_next {v : Voice} (hv : v.Inv) (d : DriverParams) (af : Option Nat) (f : Nat) :
    ∃ w, v.handle d (.sample af f) = .next w ∧ w.Inv := by
  obtain ⟨y, hy, hyi, hyp⟩ := hv.pitch.exists_issue_next (.eval f)
  change ∃ w, v.sample af f = .next w ∧ w.Inv
  cases af with
  | none =>
    exact ⟨{ v with pitch := y }, by simp only [Voice.sample, andThen_next, hy], hv.of_blocks hv.amp hyi rfl hyp⟩
  | some g =>
    obtain ⟨x, hx, hxi, hxp⟩ := hv.amp.exists_issue_next (.eval g)
    exact ⟨{ v with amp := x, pitch := y }, by simp only [Voice.sample, hx, andThen_next, hy],
      hv.of_blocks hxi hyi hxp hyp⟩

/-- Every event goes through and keeps the invariant. -/
theorem Voice.Inv.exists_handle_next {v : Voice} (hv : v.Inv) (d : DriverParams) (e : VoiceEvent) :
    ∃ w, v.handle d e = .next w ∧ w.Inv := by
  cases e with
  | trigger g a p m => exact hv.exists_trigger_next d g a p m
  | release => exact ⟨_, rfl, hv.of_blocks hv.amp hv.pitch rfl rfl⟩
  | controlTick => exact hv.exists_controlTick_next d
  | sample af f => exact hv.exists_sample_next d af f

theorem Voice.handleAll_cons {d : DriverParams} {v w : Voice} {e : VoiceEvent} (h : v.handle d e = .next w)
    (es : List VoiceEvent) : Voice.handleAll d (e :: es) v = Voice.handleAll d es w := by
  rw [Voice.handleAll, h, andThen_next]

/-- Settles O57: by induction on the list of events. -/
theorem voiceEventsKeepInvariant : Obligations.VoiceEventsKeepInvariant := by
  intro d v es
  induction es generalizing v with
  | nil => exact fun hv => ⟨v, rfl, hv⟩
  | cons e es ih =>
    intro hv
    obtain ⟨w, hw, hwi⟩ := hv.exists_handle_next d e
    rw [Voice.handleAll_cons hw]
    exact ih w hwi

/-! ### Channels -/

/-- Settles O59: the event writes its own channel's voice into the registry's list. -/
theorem channelsAreIsolated : Obligations.ChannelsAreIsolated := by
  intro d r r' c e h
  obtain ⟨v, hv, h⟩ := andThen_eq_next.mp h
  cases h
  refine ⟨List.length_set, fun k hk => List.getElem?_set_ne hk.symm, v, hv, ?_⟩
  exact List.getElem?_set_self c.isLt

end Sys2Proof.Machine
end

section
/-! PROOF. The command step and the reset input (00_scope.md R7, 70_reset_and_hazards.md R106 to R109), the output ports
(10_state.md R21), and the ports a command does not read (30_encoding.md R55). -/

namespace Sys2Proof

/-- R55: the decoded command depends on the code and on the ports that command reads. -/
theorem decode_congr {q q' : Ports} (hcmd : q.cmd = q'.cmd)
    (hinit : q.cmd = 0b01#2 → q.tableI = q'.tableI ∧ q.loopI = q'.loopI ∧ q.endI = q'.endI)
    (hadvance : q.cmd = 0b10#2 → q.releasedI = q'.releasedI) (heval : q.cmd = 0b11#2 → q.fracI = q'.fracI)
    (p : Params) : decode p q = decode p q' := by
  obtain h | h | h | h := cmdCode_cases q.cmd
  · rw [decode_of_code_nop h, decode_of_code_nop (hcmd.symm.trans h)]
  · obtain ⟨htable, hloop, hend⟩ := hinit h
    rw [decode_of_code_init h, decode_of_code_init (hcmd.symm.trans h), htable, hloop, hend]
  · rw [decode_of_code_advance h, decode_of_code_advance (hcmd.symm.trans h), hadvance h]
  · rw [decode_of_code_eval h, decode_of_code_eval (hcmd.symm.trans h), heval h]

end Sys2Proof

namespace Sys2Proof.Machine

/-- A step takes from the ports only the command they decode to. -/
theorem step_onPorts {q : Ports} (h : q.rst = false) (qs : List Ports) (s : State) :
    step (s.onPorts q qs) =
      andThen (exec (decode s.params q) s) fun t => .next (t.onPorts q qs).presentNext := by
  rw [step_of_not_rst h]
  change andThen (exec (decode s.params q) (s.onPorts q qs)) _ = _
  rw [exec_onPorts]
  cases exec (decode s.params q) s <;> rfl

/-- The present port values are gone after the step. -/
theorem State.presentNext_onPorts (q q' : Ports) (qs : List Ports) (s : State) :
    (s.onPorts q qs).presentNext = (s.onPorts q' qs).presentNext := by cases qs <;> rfl

/-- Settles O9: both steps run the same command, and neither leaves its port values behind. -/
theorem ignoredPortsHaveNoEffect : Obligations.IgnoredPortsHaveNoEffect := by
  intro s q q' hq hq' hcmd hinit hadvance heval
  change step (s.onPorts q s.schedule) = step (s.onPorts q' s.schedule)
  rw [step_onPorts hq, step_onPorts hq', decode_congr hcmd hinit hadvance heval]
  simp only [State.presentNext_onPorts q q']

/-- Settles O10: `step_of_not_rst`, where the command goes on and where it stops. -/
theorem stepRunsFetchedCommand : Obligations.StepRunsFetchedCommand := by
  intro s hr
  have hstep : step s = andThen (exec (decode s.params s.ports) s) fun t => .next t.presentNext := step_of_not_rst hr
  refine ⟨fun t ht => ?_, fun f hf => ?_⟩
  · rw [hstep, ht, andThen_next]
  · rw [hstep, hf]; rfl

/-- Settles O11: a reset step leaves the reset registers. -/
theorem resetInputOverridesCommand : Obligations.ResetInputOverridesCommand := by
  intro s hr
  refine ⟨_, step_of_rst hr, ?_⟩
  simp [State.outputs]

/-- Settles O12: the fields of `State.resetOf`. -/
theorem resetLeavesSpecifiedValues : Obligations.ResetLeavesSpecifiedValues :=
  ⟨fun _ => ⟨rfl, rfl, rfl, rfl, rfl, rfl⟩, rfl⟩

/-- Settles O50: each port is its register, and `finished_o` is `State.finished_iff`. -/
theorem outputPortsShowRegisters : Obligations.OutputPortsShowRegisters :=
  fun s => ⟨rfl, rfl, rfl, rfl, rfl, rfl, s.finished_iff⟩

end Sys2Proof.Machine
end

section
/-! PROOF. Each command (40_sequencing.md, 41_evaluate.md): the faulted block, NOP, INIT, the branches of ADVANCE, EVAL and its
values at the end fractions. -/

namespace Sys2Proof.Machine

/-- Settles O15: the guard that every command starts with. -/
theorem faultedBlockIgnoresCommands : Obligations.FaultedBlockIgnoresCommands := fun i _ h => exec_of_faulted i h

/-! ### NOP and INIT -/

/-- Settles O16: NOP writes the two pulses. -/
theorem nopClearsPulsesOnly : Obligations.NopClearsPulsesOnly := fun _ h => execNop_live h

/-- Settles O17: INIT's state, whose ramp follows the rule from the held value 0. -/
theorem initLoadsStepZero : Obligations.InitLoadsStepZero :=
  fun s table l e hf => ⟨_, _, execInit_live hf table l e, rampRule_ramp s.params.kind (decodeEntry s.params table[0]) 0⟩

/-- Settles O18: INIT's state takes its parameters and the clear fault registers, which agree, from the old one, and its
`value_q` and port values, which the statement sets aside. -/
theorem initForgetsPreviousTrack : Obligations.InitForgetsPreviousTrack := by
  intro s s' table l e hs hs' hf hf' hparams
  have hreason : s.faultReason = s'.faultReason := (hs.clear hf).trans (hs'.clear hf').symm
  have hfault : s.faultQ = s'.faultQ := hf.trans hf'.symm
  refine ⟨_, _, execInit_live hf table l e, execInit_live hf' table l e, ?_⟩
  simp only [State.setPulses, State.classify, State.setCursor, State.bind, hparams, hreason, hfault]

/-! ### ADVANCE -/

theorem State.nextMove_of_lt {s : State} (h : s.cursor.toNat + 1 < s.E.toNat) :
    s.nextMove = .enter (s.cursor.toNat + 1) := if_pos h

theorem State.nextMove_of_loop {s : State} (hlast : s.E.toNat ≤ s.cursor.toNat + 1) (hloop : s.L.toNat < s.E.toNat) :
    s.nextMove = .enter s.L.toNat := by
  simp [State.nextMove, State.loops, Nat.not_lt.mpr hlast, hloop]

theorem State.nextMove_of_noLoop {s : State} (hlast : s.E.toNat ≤ s.cursor.toNat + 1)
    (hloop : s.E.toNat ≤ s.L.toNat) : s.nextMove = .park := by
  simp [State.nextMove, State.loops, Nat.not_lt.mpr hlast, Nat.not_lt.mpr hloop]

theorem State.cursor_ne_of_lt {s : State} (h : s.cursor.toNat < s.E.toNat) : s.cursor ≠ s.E :=
  fun heq => h.ne (congrArg BitVec.toNat heq)

theorem ofNat_toNat_succ (i : Index) : BitVec.ofNat 6 (i.toNat + 1) = i + 1#6 := by
  apply BitVec.eq_of_toNat_eq
  simp

/-- ADVANCE to the step `i`, register by register: the shared part of R77 and R78. -/
theorem exec_advance_enters {s : State} {i : Nat} (hf : s.faultQ = false) (hb : s.bound = true) (hE : s.E.toNat ≤ 32)
    (hc : s.cursor ≠ s.E) (hm : s.nextMove = .enter i) (r : Bool) :
    ∃ w b d, Memory.read s.T i = some w ∧
      exec (.advance r) s = .next { s with
        cursor := BitVec.ofNat 6 i, base := b, delta := d, smooth := (decodeEntry s.params w).sm
        termQ := false, rreqQ := false } ∧
      RampRule s.params.kind (decodeEntry s.params w) (s.base + s.delta) b d := by
  have hi : i < 32 := (State.nextMove_lt hm).trans_le hE
  have hw := Memory.read_of_lt s.T hi
  exact ⟨_, _, _, hw, execAdvance_enter hf hb hc hm hw r, rampRule_ramp s.params.kind (decodeEntry s.params s.T[i]) s.held⟩

/-- Settles O20: the next step is entered. -/
theorem advanceMovesToNextStep : Obligations.AdvanceMovesToNextStep := by
  intro s r hf hb hE hlt
  have hc : s.cursor ≠ s.E := State.cursor_ne_of_lt (Nat.lt_of_succ_lt hlt)
  rw [← ofNat_toNat_succ]
  exact exec_advance_enters hf hb hE hc (State.nextMove_of_lt hlt) r

/-- Settles O21: the loop target is entered. -/
theorem advanceJumpsToLoopTarget : Obligations.AdvanceJumpsToLoopTarget := by
  intro s r hf hb hE hlast hloop
  have hc : s.cursor ≠ s.E := State.cursor_ne_of_lt (by omega)
  have h := exec_advance_enters hf hb hE hc (State.nextMove_of_loop hlast.ge hloop) r
  rwa [BitVec.ofNat_toNat, BitVec.setWidth_eq] at h

/-- Settles O22: the track parks. -/
theorem advanceParksAtEnd : Obligations.AdvanceParksAtEnd := by
  intro s r hf hb hlast hloop
  have hc : s.cursor ≠ s.E := State.cursor_ne_of_lt (by omega)
  exact ⟨_, execAdvance_park hf hb hc (State.nextMove_of_noLoop hlast.ge hloop) r, releaseRequest_iff s.params.kind r⟩

/-- Settles O23: the parked branch of ADVANCE. -/
theorem advanceLeavesParkedTrack : Obligations.AdvanceLeavesParkedTrack :=
  fun _ r hf hb hc => execAdvance_parked hf hb hc r

/-- Settles O24: the unbound branch of ADVANCE. -/
theorem advanceBeforeInitFaults : Obligations.AdvanceBeforeInitFaults := fun _ r hf hb => execAdvance_unbound hf hb r

/-! ### Where a command stops -/

/-- R43: ADVANCE of a bound block goes on, or its table read stops it at a step the space does not have. -/
theorem execAdvance_next_or_noSuchStep {s : State} (hf : s.faultQ = false) (hb : s.bound = true) (r : Bool) :
    (∃ t, execAdvance r s = .next t) ∨
    ∃ k, 32 ≤ k ∧ k < s.E.toNat ∧ execAdvance r s = .fault (.noSuchStep k) := by
  by_cases hc : s.cursor = s.E
  · exact .inl ⟨_, execAdvance_parked hf hb hc r⟩
  · cases hm : s.nextMove with
    | enter k =>
      by_cases hk : k < 32
      · exact .inl ⟨_, execAdvance_enter hf hb hc hm (Memory.read_of_lt s.T hk) r⟩
      · have hk' : 32 ≤ k := Nat.not_lt.mp hk
        refine .inr ⟨k, hk', State.nextMove_lt hm, ?_⟩
        rw [execAdvance_playing hf hb hc]
        simp only [hm, enterStep_of_ge hk']
    | park => exact .inl ⟨_, execAdvance_park hf hb hc hm r⟩

/-- Every command goes on, but for an ADVANCE of a bound block that reads outside the step space. -/
theorem exec_next_or_noSuchStep (i : Instr) (s : State) :
    (∃ t, exec i s = .next t) ∨
    ∃ r k, i = .advance r ∧ 32 ≤ k ∧ k < s.E.toNat ∧ exec i s = .fault (.noSuchStep k) := by
  cases hf : s.faultQ with
  | true => exact .inl ⟨s, exec_of_faulted i hf⟩
  | false =>
    cases hb : s.bound with
    | false =>
      obtain ⟨t, ht, _⟩ := exec_unbound i hf hb
      exact .inl ⟨t, ht⟩
    | true =>
      cases i with
      | nop => exact .inl ⟨_, execNop_live hf⟩
      | init table l e => exact .inl ⟨_, execInit_live hf table l e⟩
      | advance r =>
        obtain hnext | ⟨k, hk, hkE, hfault⟩ := execAdvance_next_or_noSuchStep hf hb r
        · exact .inl hnext
        · exact .inr ⟨r, k, rfl, hk, hkE, hfault⟩
      | eval f => exact .inl ⟨_, execEval_live hf hb f⟩

/-- Settles O25: the two outcomes of `exec_next_or_noSuchStep`. -/
theorem commandStopsOnlyOutsideStepSpace : Obligations.CommandStopsOnlyOutsideStepSpace := by
  intro i s
  obtain ⟨t, ht⟩ | ⟨r, k, hi, hk, hkE, hfault⟩ := exec_next_or_noSuchStep i s
  · simp [ht]
  · refine ⟨fun f hf => ⟨⟨r, hi⟩, hk.trans_lt hkE, k, hk, ?_⟩, by simp [hfault]⟩
    rw [hfault] at hf
    cases hf; rfl

/-! ### EVAL -/

/-- Settles O26: the interpolated value, with the bounds of its floor. -/
theorem evalInterpolates : Obligations.EvalInterpolates := by
  intro s f hf hb
  obtain ⟨hlow, hhigh⟩ := floorShift_bounds (s.delta * f) s.params.fracW
  exact ⟨_, execEval_live hf hb f, hlow, hhigh⟩

/-- Settles O27: the unbound branch of EVAL. -/
theorem evalBeforeInitFaults : Obligations.EvalBeforeInitFaults := fun _ f hf hb => execEval_unbound hf hb f

/-- What EVAL of a bound block writes (R85). -/
theorem exec_eval_value {f : Nat} {s t : State} (hf : s.faultQ = false) (hb : s.bound = true)
    (h : exec (.eval f) s = .next t) : t.valueQ = interpolate s.params s.base s.delta f := by
  rw [show exec (.eval f) s = _ from execEval_live hf hb f] at h
  cases h; rfl

/-- Settles O29: `interpolate_between`, and the ramp's ends in range. -/
theorem evalStaysWithinRamp : Obligations.EvalStaysWithinRamp := by
  intro s t f hs hf hb hfrac h
  rw [exec_eval_value hf hb h]
  obtain ⟨hlow, hhigh⟩ := interpolate_between hfrac s.base s.delta
  exact ⟨hlow, hhigh, (hs.ramp hb).interpolate hfrac⟩

/-- Settles O30: the interpolation rises or falls with the sign of `delta`. -/
theorem evalMonotoneInFraction : Obligations.EvalMonotoneInFraction := by
  intro s t t' f f' hf hb hff h h'
  rw [exec_eval_value hf hb h, exec_eval_value hf hb h']
  exact ⟨fun hd => interpolate_mono hd hff s.params s.base, fun hd => interpolate_anti hd hff s.params s.base⟩

theorem interpolate_flat (p : Params) (base : Int) (f : Nat) : interpolate p base 0 f = base := by
  simp [interpolate]

/-- Settles O31: a parked track's ramp is flat, by the invariant. -/
theorem evalOfParkedTrackIsFrozen : Obligations.EvalOfParkedTrackIsFrozen := by
  intro s f hs hf hfin
  obtain ⟨hb, _⟩ := s.finished_iff.mp hfin
  refine ⟨_, execEval_live hf hb f, ?_⟩
  rw [State.setPulses_valueQ, State.setValue_valueQ, hs.frozen hfin, interpolate_flat]

/-! ### The end fractions -/

/-- The floor is the only integer within its two bounds. -/
theorem floorShift_eq_of_bounds {a z : Int} {k : Nat} (hlow : z * 2 ^ k ≤ a) (hhigh : a < (z + 1) * 2 ^ k) :
    floorShift a k = z := by
  have hp : (0 : Int) < 2 ^ k := by positivity
  have hle : z ≤ a / 2 ^ k := (Int.le_ediv_iff_mul_le hp).mpr hlow
  have hlt : a / 2 ^ k < z + 1 := (Int.ediv_lt_iff_lt_mul hp).mpr hhigh
  unfold floorShift
  omega

/-- R86 (b): at the greatest fraction `delta` is short of its end by `delta / 2^FRAC_W`. -/
theorem interpolate_fraction_last (p : Params) (base delta : Int) :
    interpolate p base delta (2 ^ p.fracW - 1) = base + delta + floorShift (-delta) p.fracW := by
  have hp : (2 ^ p.fracW : Int) ≠ 0 := by positivity
  have hmul : delta * ((2 ^ p.fracW - 1 : Nat) : Int) = -delta + delta * 2 ^ p.fracW := by
    push_cast [Nat.one_le_two_pow]; ring
  rw [interpolate, hmul, floorShift, Int.add_mul_ediv_right _ _ hp, floorShift]
  ring

/-- Settles O28: fraction 0, and at the greatest one the floor of `-delta / 2^FRAC_W`, which is -1 or 0 for a small `delta`. -/
theorem evalAtTheEndFractions : Obligations.EvalAtTheEndFractions := by
  intro p base delta
  obtain ⟨hlow, hhigh⟩ := floorShift_bounds (-delta) p.fracW
  rw [interpolate_fraction_last]
  refine ⟨interpolate_fraction_zero p base delta, fun hpos hsmall => ?_, fun _ => ?_, fun _ => ⟨_, rfl, hlow, hhigh⟩,
    fun hneg hsmall => ?_⟩
  · have hfloor : floorShift (-delta) p.fracW = -1 := floorShift_eq_of_bounds (by omega) (by omega)
    rw [hfloor]; ring
  · exact ⟨-floorShift (-delta) p.fracW, by ring, by linarith, by linarith⟩
  · have hfloor : floorShift (-delta) p.fracW = 0 := floorShift_eq_of_bounds (by omega) (by omega)
    rw [hfloor]; ring

end Sys2Proof.Machine
end

section
/-! PROOF. What the commands leave alone (10_state.md R36, 20_memory.md R43, R44): the registers each command writes, the two
pulses, and the registers and operands without effect: `smooth`, `released_i` off the end, the entries from `E` on. -/

namespace Sys2Proof.Machine

/-! ### The writers of each register -/

theorem execAdvance_frame {r : Bool} {s t : State} (h : execAdvance r s = .next t) :
    t.bound = s.bound ∧ t.T = s.T ∧ t.L = s.L ∧ t.E = s.E ∧ t.valueQ = s.valueQ := by
  obtain ⟨_, rfl⟩ | ⟨_, _, rfl⟩ | ⟨_, _, _, rfl⟩ | ⟨_, _, _, _, _, _, _, rfl⟩ | ⟨_, _, _, _, rfl⟩ := execAdvance_cases h <;>
    exact ⟨rfl, rfl, rfl, rfl, rfl⟩

theorem execEval_frame {f : Nat} {s t : State} (h : execEval f s = .next t) :
    (t.bound = s.bound ∧ t.T = s.T ∧ t.L = s.L ∧ t.E = s.E) ∧
    t.cursor = s.cursor ∧ t.base = s.base ∧ t.delta = s.delta ∧ t.smooth = s.smooth := by
  obtain ⟨_, rfl⟩ | ⟨_, _, rfl⟩ | ⟨_, _, rfl⟩ := execEval_cases h <;>
    exact ⟨⟨rfl, rfl, rfl, rfl⟩, rfl, rfl, rfl, rfl⟩

/-- R23, R25, R44: the bound envelope is INIT's to write. -/
theorem exec_keeps_envelope {i : Instr} {s t : State} (hi : ∀ table l e, i ≠ .init table l e)
    (h : exec i s = .next t) : t.bound = s.bound ∧ t.T = s.T ∧ t.L = s.L ∧ t.E = s.E := by
  obtain ⟨_, rfl⟩ | ⟨_, ⟨_, rfl⟩ | ⟨tb, l, e, hinit, _⟩ | ⟨r, rfl, ha⟩ | ⟨f, rfl, he⟩⟩ := exec_cases h
  · exact ⟨rfl, rfl, rfl, rfl⟩
  · exact ⟨rfl, rfl, rfl, rfl⟩
  · exact absurd hinit (hi tb l e)
  · obtain ⟨hbound, hT, hL, hE, _⟩ := execAdvance_frame ha
    exact ⟨hbound, hT, hL, hE⟩
  · exact (execEval_frame he).1

/-- R26 to R29: the track is INIT's and ADVANCE's to write. -/
theorem exec_keeps_track {i : Instr} {s t : State} (hi : ∀ table l e, i ≠ .init table l e) (ha : ∀ r, i ≠ .advance r)
    (h : exec i s = .next t) :
    t.cursor = s.cursor ∧ t.base = s.base ∧ t.delta = s.delta ∧ t.smooth = s.smooth := by
  obtain ⟨_, rfl⟩ | ⟨_, ⟨_, rfl⟩ | ⟨tb, l, e, hinit, _⟩ | ⟨r, hadvance, _⟩ | ⟨f, rfl, he⟩⟩ := exec_cases h
  · exact ⟨rfl, rfl, rfl, rfl⟩
  · exact ⟨rfl, rfl, rfl, rfl⟩
  · exact absurd hinit (hi tb l e)
  · exact absurd hadvance (ha r)
  · exact (execEval_frame he).2

/-- R30: `value_q` is EVAL's to write. -/
theorem exec_keeps_valueQ {i : Instr} {s t : State} (hi : ∀ f, i ≠ .eval f) (h : exec i s = .next t) :
    t.valueQ = s.valueQ := by
  obtain ⟨_, rfl⟩ | ⟨_, ⟨_, rfl⟩ | ⟨_, _, _, _, rfl⟩ | ⟨r, rfl, ha⟩ | ⟨f, heval, _⟩⟩ := exec_cases h
  · rfl
  · rfl
  · rfl
  · obtain ⟨_, _, _, _, hvalue⟩ := execAdvance_frame ha
    exact hvalue
  · exact absurd heval (hi f)

/-- Settles O34: one lemma per group of registers. -/
theorem registersKeepTheirWriters : Obligations.RegistersKeepTheirWriters := by
  intro i s t h
  obtain ⟨hparams, hports, hschedule⟩ := exec_interface h
  exact ⟨hparams, hports, hschedule, fun hi => exec_keeps_envelope hi h, fun hi ha => exec_keeps_track hi ha h,
    fun hi => exec_keeps_valueQ hi h, fun hb => exec_keeps_fault hb h⟩

/-- Settles O32: the table is kept or it is INIT's, and `decodeEntry_wf` for its words. -/
theorem tableChangesByInitOnly : Obligations.TableChangesByInitOnly := by
  refine ⟨fun i s t h hi k => ?_, fun s t table l e hf h k => ?_, fun p w hp => decodeEntry_wf hp w⟩
  · obtain ⟨_, hT, _, _⟩ := exec_keeps_envelope hi h
    rw [hT]
  · rw [show exec (.init table l e) s = _ from execInit_live hf table l e] at h
    cases h; rfl

/-- Settles O37: of a finished track NOP, EVAL and the parked branch of ADVANCE are left. -/
theorem finishedHoldsUntilInit : Obligations.FinishedHoldsUntilInit := by
  intro i s t hfin hi h
  obtain ⟨hb, hc⟩ := s.finished_iff.mp hfin
  suffices hkept : t.cursor = s.cursor ∧ t.base = s.base ∧ t.delta = s.delta by
    obtain ⟨hbound, _, _, hE⟩ := exec_keeps_envelope hi h
    refine ⟨t.finished_iff.mpr ⟨hbound.trans hb, ?_⟩, hkept⟩
    rw [hkept.1, hE, hc]
  by_cases ha : ∃ r, i = .advance r
  · obtain ⟨r, rfl⟩ := ha
    cases hf : s.faultQ with
    | true => rw [exec_of_faulted _ hf] at h; cases h; exact ⟨rfl, rfl, rfl⟩
    | false =>
      rw [show exec (.advance r) s = _ from execAdvance_parked hf hb hc r] at h
      cases h; exact ⟨rfl, rfl, rfl⟩
  · obtain ⟨hcursor, hbase, hdelta, _⟩ := exec_keeps_track hi (fun r hr => ha ⟨r, hr⟩) h
    exact ⟨hcursor, hbase, hdelta⟩

/-! ### The two pulses -/

theorem State.ParksNext.nextMove_eq {s : State} (h : s.ParksNext) : s.nextMove = .park :=
  State.nextMove_of_noLoop h.last h.noLoop

/-- A block that was or is faulted after a command kept its pulses (R67, R92). -/
theorem exec_keeps_pulses_of_fault {i : Instr} {s t : State} (h : exec i s = .next t)
    (hfault : s.faultQ = true ∨ t.faultQ = true) : t.termQ = s.termQ ∧ t.rreqQ = s.rreqQ := by
  cases hf : s.faultQ with
  | true => rw [exec_of_faulted i hf] at h; cases h; exact ⟨rfl, rfl⟩
  | false =>
    have ht : t.faultQ = true := hfault.resolve_left (ne_true_of_eq_false hf)
    by_cases hrun : s.bound = true ∨ runsUnbound i = true
    · obtain ⟨hsame, _⟩ := exec_keeps_fault hrun h
      rw [hsame, hf] at ht
      cases ht
    · obtain ⟨hb, hi⟩ := not_or.mp hrun
      have hb : s.bound = false := Bool.eq_false_of_not_eq_true hb
      cases i with
      | nop => exact absurd rfl hi
      | init table l e => exact absurd rfl hi
      | advance r => rw [show exec (.advance r) s = _ from execAdvance_unbound hf hb r] at h; cases h; exact ⟨rfl, rfl⟩
      | eval f => rw [show exec (.eval f) s = _ from execEval_unbound hf hb f] at h; cases h; exact ⟨rfl, rfl⟩

/-- R84 for ADVANCE: it parks and reports, or it clears both pulses. -/
theorem execAdvance_pulses {r : Bool} {s t : State} (hf : s.faultQ = false) (ht : t.faultQ = false)
    (h : execAdvance r s = .next t) :
    (s.ParksNext ∧ t.termQ = true ∧ t.rreqQ = releaseRequest s.params.kind r) ∨
    (¬ s.ParksNext ∧ t.termQ = false ∧ t.rreqQ = false) := by
  obtain ⟨hf', _⟩ | ⟨_, _, rfl⟩ | ⟨_, _, hc, rfl⟩ | ⟨_, _, _, i, w, hm, _, rfl⟩ | ⟨_, hb, hc, hm, rfl⟩ :=
    execAdvance_cases h
  · simp [hf] at hf'
  · simp at ht
  · exact .inr ⟨fun hp => hp.playing hc, rfl, rfl⟩
  · refine .inr ⟨fun hp => ?_, rfl, rfl⟩
    rw [hp.nextMove_eq] at hm
    cases hm
  · exact .inl ⟨State.parksNext_of_nextMove_park hf hb hc hm, rfl, rfl⟩

/-- R84: a command that leaves no fault clears both pulses, unless it is a parking ADVANCE. -/
theorem exec_pulses {i : Instr} {s t : State} (hf : s.faultQ = false) (ht : t.faultQ = false) (h : exec i s = .next t) :
    (∃ r, i = .advance r ∧ s.ParksNext ∧ t.termQ = true ∧ t.rreqQ = releaseRequest s.params.kind r) ∨
    ((∀ r, i = .advance r → ¬ s.ParksNext) ∧ t.termQ = false ∧ t.rreqQ = false) := by
  obtain ⟨hf', _⟩ | ⟨_, ⟨rfl, rfl⟩ | ⟨_, _, _, rfl, rfl⟩ | ⟨r, rfl, ha⟩ | ⟨f, rfl, he⟩⟩ := exec_cases h
  · simp [hf] at hf'
  · exact .inr ⟨by simp, rfl, rfl⟩
  · exact .inr ⟨by simp, rfl, rfl⟩
  · obtain ⟨hp, hterm, hrreq⟩ | ⟨hp, hterm, hrreq⟩ := execAdvance_pulses hf ht ha
    · exact .inl ⟨r, rfl, hp, hterm, hrreq⟩
    · exact .inr ⟨fun _ _ => hp, hterm, hrreq⟩
  · obtain ⟨hf', _⟩ | ⟨_, _, rfl⟩ | ⟨_, _, rfl⟩ := execEval_cases he
    · simp [hf] at hf'
    · simp at ht
    · exact .inr ⟨by simp, rfl, rfl⟩

/-- Settles O35: a fault keeps the pulses, and `exec_pulses` gives them otherwise. -/
theorem pulsesByCommand : Obligations.PulsesByCommand := by
  intro i s t h
  refine ⟨exec_keeps_pulses_of_fault h, fun hf ht => ?_⟩
  obtain ⟨r, rfl, hp, hterm, hrreq⟩ | ⟨hnone, hterm, hrreq⟩ := exec_pulses hf ht h
  · simp [hterm, hrreq, hp, releaseRequest_iff, and_comm]
  · simp only [hterm, hrreq, Bool.false_eq_true, false_iff]
    exact ⟨fun ⟨⟨r, hi⟩, hp⟩ => hnone r hi hp, fun ⟨hi, hp, _⟩ => hnone false hi hp⟩

/-! ### `released_i` -/

/-- R97: an ADVANCE that does not park does not look at `released_i`. -/
theorem execAdvance_released_irrelevant {s : State} (hp : ¬ s.ParksNext) (r r' : Bool) :
    execAdvance r s = execAdvance r' s := by
  cases hf : s.faultQ with
  | true => exact (exec_of_faulted (.advance r) hf).trans (exec_of_faulted (.advance r') hf).symm
  | false =>
    cases hb : s.bound with
    | false => rw [execAdvance_unbound hf hb, execAdvance_unbound hf hb]
    | true =>
      by_cases hc : s.cursor = s.E
      · rw [execAdvance_parked hf hb hc, execAdvance_parked hf hb hc]
      · rw [execAdvance_playing hf hb hc, execAdvance_playing hf hb hc]
        cases hm : s.nextMove with
        | enter i => rfl
        | park => exact absurd (State.parksNext_of_nextMove_park hf hb hc hm) hp

/-- A parking ADVANCE (R79). -/
theorem State.ParksNext.exec_advance {s : State} (hp : s.ParksNext) (r : Bool) :
    exec (.advance r) s = .next (s.park.setPulses true (releaseRequest s.params.kind r)) :=
  execAdvance_park hp.live hp.bound hp.playing hp.nextMove_eq r

/-- Settles O39: off the end `released_i` is not looked at, and a released track's parking ADVANCE makes no request. -/
theorem releasedFlagMattersOnlyWhenParking : Obligations.ReleasedFlagMattersOnlyWhenParking := by
  intro s
  refine ⟨fun hp => execAdvance_released_irrelevant hp true false, fun hp t h => ?_⟩
  rw [hp.exec_advance] at h
  cases h
  rw [hp.exec_advance, releaseRequest_released]
  rfl

/-! ### `smooth` -/

/-- The same state with another `smooth`. -/
def State.withSmooth (b : Bool) (s : State) : State := { s with smooth := b }

theorem execAdvance_withSmooth {r : Bool} {s t : State} (h : execAdvance r s = .next t) (b : Bool) :
    ∃ b', execAdvance r (s.withSmooth b) = .next (t.withSmooth b') := by
  obtain ⟨hf, rfl⟩ | ⟨hf, hb, rfl⟩ | ⟨hf, hb, hc, rfl⟩ | ⟨hf, hb, hc, i, w, hm, hw, rfl⟩ | ⟨hf, hb, hc, hm, rfl⟩ :=
    execAdvance_cases h
  · exact ⟨b, exec_of_faulted (.advance r) hf⟩
  · exact ⟨b, execAdvance_unbound (s := s.withSmooth b) hf hb r⟩
  · exact ⟨b, execAdvance_parked (s := s.withSmooth b) hf hb hc r⟩
  · exact ⟨(decodeEntry s.params w).sm, execAdvance_enter (s := s.withSmooth b) hf hb hc hm hw r⟩
  · exact ⟨b, execAdvance_park (s := s.withSmooth b) hf hb hc hm r⟩

theorem execEval_withSmooth {f : Nat} {s t : State} (h : execEval f s = .next t) (b : Bool) :
    execEval f (s.withSmooth b) = .next (t.withSmooth b) := by
  obtain ⟨hf, rfl⟩ | ⟨hf, hb, rfl⟩ | ⟨hf, hb, rfl⟩ := execEval_cases h
  · exact exec_of_faulted (.eval f) hf
  · exact execEval_unbound (s := s.withSmooth b) hf hb f
  · exact execEval_live (s := s.withSmooth b) hf hb f

/-- Settles O38: no command reads `smooth`, and one that classifies writes it afresh. -/
theorem smoothFlagHasNoEffect : Obligations.SmoothFlagHasNoEffect := by
  intro i s t b h
  change ∃ b', exec i (s.withSmooth b) = .next (t.withSmooth b')
  obtain ⟨hf, rfl⟩ | ⟨hf, ⟨rfl, rfl⟩ | ⟨tb, l, e, rfl, rfl⟩ | ⟨r, rfl, ha⟩ | ⟨f, rfl, he⟩⟩ := exec_cases h
  · exact ⟨b, exec_of_faulted i hf⟩
  · exact ⟨b, execNop_live (s := s.withSmooth b) hf⟩
  · exact ⟨(decodeEntry s.params tb[0]).sm, execInit_live (s := s.withSmooth b) hf tb l e⟩
  · exact execAdvance_withSmooth ha b
  · exact ⟨b, execEval_withSmooth he b⟩

/-! ### The entries from `E` on -/

/-- The same state with another table. -/
def State.withTable (T' : Table) (s : State) : State := { s with T := T' }

/-- ADVANCE reads the table below `E` only. -/
theorem execAdvance_withTable {r : Bool} {s t : State} {T' : Table}
    (hT : ∀ k, k < s.E.toNat → Memory.read T' k = Memory.read s.T k) (h : execAdvance r s = .next t) :
    execAdvance r (s.withTable T') = .next (t.withTable T') := by
  obtain ⟨hf, rfl⟩ | ⟨hf, hb, rfl⟩ | ⟨hf, hb, hc, rfl⟩ | ⟨hf, hb, hc, i, w, hm, hw, rfl⟩ | ⟨hf, hb, hc, hm, rfl⟩ :=
    execAdvance_cases h
  · exact exec_of_faulted (.advance r) hf
  · exact execAdvance_unbound (s := s.withTable T') hf hb r
  · exact execAdvance_parked (s := s.withTable T') hf hb hc r
  · have hw' : Memory.read T' i = some w := (hT i (State.nextMove_lt hm)).trans hw
    exact execAdvance_enter (s := s.withTable T') hf hb hc hm hw' r
  · exact execAdvance_park (s := s.withTable T') hf hb hc hm r

theorem execEval_withTable {f : Nat} {s t : State} (h : execEval f s = .next t) (T' : Table) :
    execEval f (s.withTable T') = .next (t.withTable T') := by
  obtain ⟨hf, rfl⟩ | ⟨hf, hb, rfl⟩ | ⟨hf, hb, rfl⟩ := execEval_cases h
  · exact exec_of_faulted (.eval f) hf
  · exact execEval_unbound (s := s.withTable T') hf hb f
  · exact execEval_live (s := s.withTable T') hf hb f

/-- Settles O41: of the commands besides INIT only ADVANCE reads the table, below `E`. -/
theorem entriesPastEndNeverRead : Obligations.EntriesPastEndNeverRead := by
  intro i s t T' _ hi hT h
  change exec i (s.withTable T') = .next (t.withTable T')
  obtain ⟨hf, rfl⟩ | ⟨hf, ⟨rfl, rfl⟩ | ⟨tb, l, e, hinit, _⟩ | ⟨r, rfl, ha⟩ | ⟨f, rfl, he⟩⟩ := exec_cases h
  · exact exec_of_faulted i hf
  · exact execNop_live (s := s.withTable T') hf
  · exact absurd hinit (hi tb l e)
  · exact execAdvance_withTable hT ha
  · exact execEval_withTable he T'

end Sys2Proof.Machine
end

section
/-! PROOF. Runs of ADVANCEs over a looping track (40_sequencing.md R78, R82): each ADVANCE is one and the same map on states,
`State.loopAdvance`, so `n` of them are its `n`-th iterate. -/

namespace Sys2Proof.Machine

/-! ### One ADVANCE of a looping track -/

/-- A bound, unfaulted track on one of its steps, with the loop enabled. -/
structure State.Looping (s : State) : Prop where
  live    : s.faultQ = false
  bound   : s.bound = true
  playing : s.cursor.toNat < s.E.toNat
  endMax  : s.E.toNat ≤ 32
  loop    : s.L.toNat < s.E.toNat

/-- The step after the present one: the following step, or the loop target (R77). -/
def State.nextIndex (s : State) : Nat := if s.cursor.toNat + 1 < s.E.toNat then s.cursor.toNat + 1 else s.L.toNat

/-- The word at an index of the table; 0 outside the step space. -/
def Memory.wordAt (t : Table) (i : Nat) : Nat := (Memory.read t i).getD 0

/-- The next step entered, with its entry classified. -/
def State.loopAdvance (s : State) : State :=
  ((s.setCursor (BitVec.ofNat 6 s.nextIndex)).classify (Memory.wordAt s.T s.nextIndex) s.held).setPulses false false

theorem Memory.read_eq_wordAt (t : Table) {i : Nat} (h : i < 32) : Memory.read t i = some (Memory.wordAt t i) := by
  simp [Memory.wordAt, Memory.read_of_lt t h]

theorem State.Looping.nextMove_eq {s : State} (hs : s.Looping) : s.nextMove = .enter s.nextIndex := by
  by_cases hlt : s.cursor.toNat + 1 < s.E.toNat
  · rw [State.nextMove_of_lt hlt, State.nextIndex, if_pos hlt]
  · rw [State.nextMove_of_loop (Nat.not_lt.mp hlt) hs.loop, State.nextIndex, if_neg hlt]

theorem State.Looping.nextIndex_lt {s : State} (hs : s.Looping) : s.nextIndex < s.E.toNat :=
  State.nextMove_lt hs.nextMove_eq

/-- ADVANCE of a looping track, whatever `released_i`. -/
theorem State.Looping.exec_advance {s : State} (hs : s.Looping) (r : Bool) :
    exec (.advance r) s = .next s.loopAdvance := by
  have hw := Memory.read_eq_wordAt s.T (hs.nextIndex_lt.trans_le hs.endMax)
  exact execAdvance_enter hs.live hs.bound (State.cursor_ne_of_lt hs.playing) hs.nextMove_eq hw r

theorem State.Looping.cursor_loopAdvance {s : State} (hs : s.Looping) :
    s.loopAdvance.cursor.toNat = s.nextIndex := toNat_ofNat_of_nextMove hs.endMax hs.nextMove_eq

theorem State.Looping.loopAdvance {s : State} (hs : s.Looping) : s.loopAdvance.Looping :=
  ⟨hs.live, hs.bound, hs.cursor_loopAdvance.trans_lt hs.nextIndex_lt, hs.endMax, hs.loop⟩

theorem State.Looping.not_finished {s : State} (hs : s.Looping) : s.finished = false := by
  simp [State.finished, State.cursor_ne_of_lt hs.playing]

/-! ### `n` ADVANCEs -/

theorem State.Looping.iterate {s : State} (hs : s.Looping) (n : Nat) : (State.loopAdvance^[n] s).Looping := by
  induction n with
  | zero => exact hs
  | succ n ih => rw [Function.iterate_succ_apply']; exact ih.loopAdvance

theorem State.Looping.execAll_advance {s : State} (hs : s.Looping) (rs : List Bool) :
    execAll (rs.map .advance) s = .next (State.loopAdvance^[rs.length] s) := by
  induction rs generalizing s with
  | nil => rfl
  | cons r rs ih =>
    rw [List.map_cons, execAll, hs.exec_advance r, andThen_next, ih hs.loopAdvance, List.length_cons,
      Function.iterate_succ_apply]

/-- No ADVANCE changes the envelope or the block's parameters. -/
theorem State.iterate_loopAdvance_envelope (s : State) (n : Nat) :
    (State.loopAdvance^[n] s).T = s.T ∧ (State.loopAdvance^[n] s).L = s.L ∧ (State.loopAdvance^[n] s).E = s.E ∧
      (State.loopAdvance^[n] s).params = s.params := by
  induction n with
  | zero => exact ⟨rfl, rfl, rfl, rfl⟩
  | succ n ih => rw [Function.iterate_succ_apply']; exact ih

/-- A bound, unfaulted state of the invariant with the loop enabled is a looping track if it stands on a step. -/
theorem State.Inv.looping {s : State} (hs : s.Inv) (hf : s.faultQ = false) (hb : s.bound = true)
    (hplaying : s.cursor.toNat < s.E.toNat) (hloop : s.L.toNat < s.E.toNat) : s.Looping :=
  ⟨hf, hb, hplaying, (hs.cursor hb).endMax, hloop⟩

/-- An unfinished track of the invariant stands on a step. -/
theorem State.Inv.cursor_lt {s : State} (hs : s.Inv) (hb : s.bound = true) (hfin : s.finished = false) :
    s.cursor.toNat < s.E.toNat := by
  have hne : s.cursor ≠ s.E := fun h => ne_true_of_eq_false hfin (s.finished_iff.mpr ⟨hb, h⟩)
  exact (hs.cursor hb).cursor.lt_of_ne fun h => hne (BitVec.eq_of_toNat_eq h)

/-- Settles O46: every iterate is a looping track, and the last ADVANCE cleared the pulses. -/
theorem loopNeverTerminates : Obligations.LoopNeverTerminates := by
  intro s rs hs hf hb hfin hloop
  have hlooping := hs.looping hf hb (hs.cursor_lt hb hfin) hloop
  have hend := hlooping.iterate rs.length
  refine ⟨_, hlooping.execAll_advance rs, hend.not_finished, hend.live, fun hne => ?_⟩
  obtain ⟨n, hn⟩ := Nat.exists_eq_succ_of_ne_zero (List.length_pos_iff.mpr hne).ne'
  rw [hn, Function.iterate_succ_apply']
  exact ⟨rfl, rfl⟩

/-! ### The cursor's period -/

/-- A remainder goes up by one, and back to 0 from the greatest one. -/
theorem add_one_mod_eq_ite (n : Nat) {p : Nat} (hp : 0 < p) :
    (n + 1) % p = if n % p + 1 < p then n % p + 1 else 0 := by
  rw [← Nat.mod_add_mod]
  split
  · next hlt => exact Nat.mod_eq_of_lt hlt
  · next hge =>
    have hlast : n % p + 1 = p := by have := Nat.mod_lt n hp; omega
    rw [hlast, Nat.mod_self]

/-- R82: the cursor after `n` ADVANCEs from `L`. -/
theorem State.Looping.cursor_iterate {s : State} (hs : s.Looping) (hc : s.cursor = s.L) (n : Nat) :
    (State.loopAdvance^[n] s).cursor.toNat = s.L.toNat + n % (s.E.toNat - s.L.toNat) := by
  induction n with
  | zero => simp [hc]
  | succ n ih =>
    obtain ⟨_, hL, hE, _⟩ := s.iterate_loopAdvance_envelope n
    have hloop := hs.loop
    rw [Function.iterate_succ_apply', (hs.iterate n).cursor_loopAdvance, State.nextIndex, ih, hL, hE,
      add_one_mod_eq_ite n (by omega)]
    split <;> split <;> omega

/-- Settles O47: the closed form of the cursor. -/
theorem loopCursorIsPeriodic : Obligations.LoopCursorIsPeriodic := by
  intro s rs hs hf hb hloop hc
  have hlooping := hs.looping hf hb (by rw [hc]; exact hloop) hloop
  exact ⟨_, hlooping.execAll_advance rs, hlooping.cursor_iterate hc rs.length⟩

/-! ### The ramp's period

`held` is all that a step hands on to the next one, and each entry either passes it on or sets it to a value of its own. So a
whole pass, as a function of the value held before it, is the identity or constant: two passes do what one does. -/

/-- The value held after an entry's ramp, from the one held before it. -/
def heldAfter (k : TrackKind) (e : Entry) (held : Int) : Int := (ramp k e held).1 + (ramp k e held).2

theorem heldAfter_id_or_const (k : TrackKind) (e : Entry) :
    (∀ h, heldAfter k e h = h) ∨ ∃ c, ∀ h, heldAfter k e h = c := by
  cases he : e.eff with
  | attack => exact .inr ⟨e.mag, fun h => by simp [heldAfter, ramp, he]⟩
  | decay => exact .inr ⟨0, fun h => by simp [heldAfter, ramp, he]⟩
  | slide => exact .inr ⟨e.mag, fun h => by simp [heldAfter, ramp, he]⟩
  | step =>
    cases k with
    | pitch => exact .inr ⟨e.mag, fun h => by simp [heldAfter, ramp, he]⟩
    | amp => exact .inl fun h => by simp [heldAfter, ramp, he]

/-- The value held after the entries `0..n-1` of a sequence. -/
def heldAfterAll (k : TrackKind) (e : Nat → Entry) : Nat → Int → Int
  | 0, h => h
  | n + 1, h => heldAfter k (e n) (heldAfterAll k e n h)

theorem heldAfterAll_id_or_const (k : TrackKind) (e : Nat → Entry) (n : Nat) :
    (∀ h, heldAfterAll k e n h = h) ∨ ∃ c, ∀ h, heldAfterAll k e n h = c := by
  induction n with
  | zero => exact .inl fun _ => rfl
  | succ n ih =>
    obtain hid | ⟨c, hc⟩ := heldAfter_id_or_const k (e n)
    · simpa only [heldAfterAll, hid] using ih
    · exact .inr ⟨c, fun h => hc _⟩

theorem heldAfterAll_idem (k : TrackKind) (e : Nat → Entry) (n : Nat) (h : Int) :
    heldAfterAll k e n (heldAfterAll k e n h) = heldAfterAll k e n h := by
  obtain hid | ⟨c, hc⟩ := heldAfterAll_id_or_const k e n
  · exact hid _
  · rw [hc, hc]

/-- Over a periodic sequence the first pass may be taken apart. -/
theorem heldAfterAll_add_period (k : TrackKind) {e : Nat → Entry} {p : Nat} (he : ∀ n, e (n + p) = e n) (n : Nat) (h : Int) :
    heldAfterAll k e (n + p) h = heldAfterAll k e n (heldAfterAll k e p h) := by
  induction n with
  | zero => rw [Nat.zero_add]; rfl
  | succ n ih => rw [Nat.succ_add, heldAfterAll, ih, he, heldAfterAll]

/-- After the first pass the held value is periodic. -/
theorem heldAfterAll_periodic (k : TrackKind) {e : Nat → Entry} {p n : Nat} (he : ∀ n, e (n + p) = e n) (hn : p ≤ n)
    (h : Int) : heldAfterAll k e (n + p) h = heldAfterAll k e n h := by
  obtain ⟨m, rfl⟩ := Nat.exists_eq_add_of_le' hn
  simp only [heldAfterAll_add_period k he, heldAfterAll_idem]

/-- The entry of the `n`-th step from the loop target on. -/
def State.loopEntry (s : State) (n : Nat) : Entry :=
  decodeEntry s.params (Memory.wordAt s.T (s.L.toNat + n % (s.E.toNat - s.L.toNat)))

theorem State.loopEntry_periodic (s : State) (n : Nat) :
    s.loopEntry (n + (s.E.toNat - s.L.toNat)) = s.loopEntry n := by
  simp only [State.loopEntry, Nat.add_mod_right]

/-- The ramp after `n` ADVANCEs from `L` is that of the `n`-th entry, from the value held after the entries before it. -/
theorem State.Looping.ramp_iterate {s : State} (hs : s.Looping) (hc : s.cursor = s.L) {h : Int}
    (hramp : RampRule s.params.kind (s.loopEntry 0) h s.base s.delta) (n : Nat) :
    RampRule s.params.kind (s.loopEntry n) (heldAfterAll s.params.kind s.loopEntry n h)
      (State.loopAdvance^[n] s).base (State.loopAdvance^[n] s).delta := by
  induction n with
  | zero => exact hramp
  | succ n ih =>
    obtain ⟨hT, _, _, hparams⟩ := s.iterate_loopAdvance_envelope n
    have hheld : (State.loopAdvance^[n] s).held = heldAfterAll s.params.kind s.loopEntry (n + 1) h := by
      obtain ⟨hbase, hdelta⟩ := ih.eq_ramp
      rw [State.held, hbase, hdelta]; rfl
    have hindex : (State.loopAdvance^[n] s).nextIndex = s.L.toNat + (n + 1) % (s.E.toNat - s.L.toNat) := by
      rw [← (hs.iterate n).cursor_loopAdvance, ← Function.iterate_succ_apply' State.loopAdvance, hs.cursor_iterate hc]
    rw [Function.iterate_succ_apply', ← hheld, State.loopEntry, ← hindex, ← hT, ← hparams]
    exact rampRule_ramp _ _ _

/-- Settles O48: the ramp is a function of the entry and the held value, which are periodic from the second pass on. -/
theorem loopRampIsPeriodicFromSecondPass : Obligations.LoopRampIsPeriodicFromSecondPass := by
  intro s t t' rs rs' w h hs hf hb hloop hc hw hramp hlen hlen' ht ht'
  have hlooping := hs.looping hf hb (by rw [hc]; exact hloop) hloop
  have hentry : s.loopEntry 0 = decodeEntry s.params w := by
    simp [State.loopEntry, Memory.wordAt, hw]
  rw [hlooping.execAll_advance] at ht ht'
  cases ht
  cases ht'
  obtain ⟨hbase, hdelta⟩ := (hlooping.ramp_iterate hc (hentry ▸ hramp) rs.length).eq_ramp
  obtain ⟨hbase', hdelta'⟩ := (hlooping.ramp_iterate hc (hentry ▸ hramp) rs'.length).eq_ramp
  rw [hlen', s.loopEntry_periodic, heldAfterAll_periodic _ s.loopEntry_periodic hlen] at hbase' hdelta'
  refine ⟨by rw [hlen', hbase', hbase], by rw [hlen', hdelta', hdelta], BitVec.eq_of_toNat_eq ?_⟩
  rw [hlooping.cursor_iterate hc, hlooping.cursor_iterate hc, hlen', Nat.add_mod_right]

end Sys2Proof.Machine
end

section
/-! PROOF. The track without a loop (40_sequencing.md R83) and the voice that plays it (70_reset_and_hazards.md R116, R119):
where a track stands after INIT and a list of ADVANCEs, and how many ADVANCEs the ticks since a trigger have sent. -/

namespace Sys2Proof.Machine

/-! ### ADVANCEs after INIT -/

/-- A block of parameters `p` after INIT with `end_i = e` and the loop disabled, and one ADVANCE with each flag of `rs`. -/
structure State.PlayedThrough (p : Params) (e : Index) (rs : List Bool) (s : State) : Prop where
  live    : s.faultQ = false
  bound   : s.bound = true
  params  : s.params = p
  endIdx  : s.E = normEnd e
  noLoop  : (normEnd e).toNat ≤ s.L.toNat
  cursor  : s.cursor.toNat = min rs.length (normEnd e).toNat
  report  : s.termQ = true ↔ rs.length = (normEnd e).toNat
  request : s.rreqQ = true ↔ rs.length = (normEnd e).toNat ∧ p.kind = .amp ∧ rs.getLast? = some false

/-- INIT puts the track at the start; its end is no less than 1, so nothing is reported yet. -/
theorem State.playedThrough_of_init {s t : State} {table : Table} {l e : Index} (hf : s.faultQ = false)
    (hl : (normEnd e).toNat ≤ l.toNat) (h : exec (.init table l e) s = .next t) :
    t.PlayedThrough s.params e [] := by
  obtain ⟨hpos, _⟩ := normEnd_range e
  have hne : 0 ≠ (normEnd e).toNat := Nat.ne_of_lt hpos
  rw [show exec (.init table l e) s = _ from execInit_live hf table l e] at h
  cases h
  exact ⟨hf, rfl, rfl, rfl, hl, by simp, by simpa using hne, by simp⟩

/-- One more ADVANCE: a parked track stays, a playing one takes its next step or, from the last one, parks and reports. -/
theorem State.PlayedThrough.advance {p : Params} {e : Index} {rs : List Bool} {s t : State}
    (hs : s.PlayedThrough p e rs) {r : Bool} (h : exec (.advance r) s = .next t) : t.PlayedThrough p e (rs ++ [r]) := by
  obtain ⟨hlive, hbound, rfl, hE, hloop, hcursor, _, _⟩ := hs
  have hlen : (rs ++ [r]).length = rs.length + 1 := List.length_append
  have hEnat : s.E.toNat = (normEnd e).toNat := congrArg _ hE
  obtain ⟨hf, _⟩ | ⟨_, hb, _⟩ | ⟨_, _, hc, rfl⟩ | ⟨_, _, _, i, w, hm, _, rfl⟩ | ⟨_, _, hc, hm, rfl⟩ := execAdvance_cases h
  · exact absurd hf (ne_true_of_eq_false hlive)
  · exact absurd hbound (ne_true_of_eq_false hb)
  · have hparked : (normEnd e).toNat ≤ rs.length := by
      rw [hc] at hcursor; omega
    have hne : rs.length + 1 ≠ (normEnd e).toNat := by omega
    exact ⟨hlive, hbound, rfl, hE, hloop, by simp [hcursor]; omega, by simp [hne], by simp [hne]⟩
  · have hnat := toNat_ofNat_of_nextMove (by have := normEnd_range e; omega) hm
    obtain ⟨hlt, hi⟩ | ⟨_, hL, _⟩ | ⟨_, _, hpark⟩ := s.nextMove_cases
    · rw [hi] at hm; cases hm
      have hne : rs.length + 1 ≠ (normEnd e).toNat := by omega
      exact ⟨hlive, hbound, rfl, hE, hloop, by simp [hnat]; omega, by simp [hne], by simp [hne]⟩
    · omega
    · rw [hpark] at hm; cases hm
  · have hne : s.cursor.toNat ≠ s.E.toNat := fun heq => hc (BitVec.eq_of_toNat_eq heq)
    have hlast := (State.parksNext_of_nextMove_park hlive hbound hc hm).last
    have hlast : rs.length + 1 = (normEnd e).toNat := by omega
    exact ⟨hlive, hbound, rfl, hE, hloop, by simp [hE, hlast], by simp [hlast], by simp [hlast, releaseRequest_iff]⟩

/-- A list of ADVANCEs, one after another. -/
theorem State.PlayedThrough.execAll_advance {p : Params} {e : Index} {rs₀ : List Bool} {s : State}
    (hs : s.PlayedThrough p e rs₀) (rs : List Bool) :
    ∃ t, execAll (rs.map .advance) s = .next t ∧ t.PlayedThrough p e (rs₀ ++ rs) := by
  induction rs generalizing rs₀ s with
  | nil => exact ⟨s, rfl, by rwa [List.append_nil]⟩
  | cons r rs ih =>
    have hE : s.E.toNat ≤ 32 := by rw [hs.endIdx]; exact (normEnd_range e).2
    obtain ⟨u, hu⟩ := exists_exec_next (.advance r) hE
    obtain ⟨t, ht, htp⟩ := ih (hs.advance hu)
    refine ⟨t, ?_, by rwa [List.append_assoc] at htp⟩
    rw [List.map_cons, execAll, hu, andThen_next, ht]

theorem State.PlayedThrough.finished_iff {p : Params} {e : Index} {rs : List Bool} {s : State}
    (hs : s.PlayedThrough p e rs) : s.finished = true ↔ (normEnd e).toNat ≤ rs.length := by
  have hcursor := hs.cursor
  rw [State.finished_iff, hs.endIdx, ← BitVec.toNat_inj]
  simp only [hs.bound, true_and]
  omega

/-- Settles O49: the list of all the ADVANCEs, played through from INIT's state. -/
theorem trackTerminatesAtEthAdvance : Obligations.TrackTerminatesAtEthAdvance := by
  intro s table l e rs hf hl
  obtain ⟨u, hu⟩ := exists_exec_init_next table l e s
  obtain ⟨t, ht, hplayed⟩ := (State.playedThrough_of_init hf hl hu).execAll_advance rs
  rw [List.nil_append] at hplayed
  have hcursor := hplayed.cursor
  refine ⟨t, by rw [execAll, hu, andThen_next, ht], hplayed.live, fun hlt => ?_, fun heq => ?_, fun hgt => ?_⟩
  · have hne : rs.length ≠ (normEnd e).toNat := hlt.ne
    refine ⟨by omega, ?_, ?_, ?_⟩ <;> rw [Bool.eq_false_iff]
    · rw [ne_eq, hplayed.finished_iff]; omega
    · rw [ne_eq, hplayed.report]; exact hne
    · rw [ne_eq, hplayed.request]; exact fun h => hne h.1
  · refine ⟨BitVec.eq_of_toNat_eq (by omega), hplayed.finished_iff.mpr heq.ge, hplayed.report.mpr heq, ?_⟩
    rw [hplayed.request]
    exact and_iff_right heq
  · have hne : rs.length ≠ (normEnd e).toNat := hgt.ne'
    refine ⟨hplayed.finished_iff.mpr hgt.le, ?_, ?_⟩ <;> rw [Bool.eq_false_iff]
    · rw [ne_eq, hplayed.report]; exact hne
    · rw [ne_eq, hplayed.request]; exact fun h => hne h.1

/-! ### Control ticks after a trigger -/

/-- The control ticks between two ADVANCEs (R116). -/
def ticksPerStep (d : DriverParams) (m : Nat) : Nat := if d.stepScalesAdvance then max 1 m else 1

theorem ticksPerStep_pos (d : DriverParams) (m : Nat) : 0 < ticksPerStep d m := by
  unfold ticksPerStep
  split <;> omega

theorem advanceDue_iff_dvd (d : DriverParams) (m n : Nat) : advanceDue d m n = true ↔ ticksPerStep d m ∣ n := by
  rw [advanceDue_iff, ticksPerStep]
  cases d.stepScalesAdvance with
  | false => simp
  | true => simp [Nat.dvd_iff_mod_eq_zero]

/-- A command is sent as what its port values decode to. -/
theorem issue_eq_exec_decode (i : Instr) (s : State) : issue i s = exec (decode s.params (encode i)) s := by
  rw [issue_eq_step, step_onPorts (encode_rst i)]
  cases h : exec (decode s.params (encode i)) s with
  | next t =>
    obtain ⟨_, hports, hschedule⟩ := exec_interface h
    change Host.Outcome.next (t.onPorts s.ports s.schedule) = _
    rw [← hports, ← hschedule]; rfl
  | fault f => rfl
  | refused f => rfl

/-- A voice `k` control ticks after a trigger that bound an `AMP` envelope of end `e` without a loop: its track has taken one
ADVANCE for every `ticksPerStep` ticks, and it is released once they are as many as the steps. -/
structure Voice.Ticked (d : DriverParams) (m : Nat) (e : Index) (k : Nat) (v : Voice) : Prop where
  inv      : v.Inv
  stepMul  : v.stepMul = m
  ticks    : v.ticks = k
  played   : ∃ rs : List Bool, rs.length = k / ticksPerStep d m ∧ v.amp.PlayedThrough v.amp.params e rs
  released : v.released = true ↔ (normEnd e).toNat ≤ k / ticksPerStep d m

/-- The hard trigger of an unfaulted voice: both tracks at their start, and the voice not released. -/
theorem Voice.Inv.ticked_of_trigger {v : Voice} (hv : v.Inv) (hf : v.amp.faultQ = false) (d : DriverParams)
    {a : Envelope} (hl : (normEnd a.endIndex).toNat ≤ a.loopIndex.toNat) (p : Envelope) (m : Nat) :
    ∃ w, v.handle d (.trigger false a p m) = .next w ∧ w.Ticked d m a.endIndex 0 := by
  obtain ⟨x, hx, hxi, hxp⟩ := hv.amp.exists_issue_next a.init
  obtain ⟨y, hy, hyi, hyp⟩ := hv.pitch.exists_issue_next p.init
  have hplayed : x.PlayedThrough x.params a.endIndex [] := by
    rw [issue_eq_exec_decode, Envelope.init, decode_of_code_init rfl] at hx
    rw [hxp]
    exact State.playedThrough_of_init hf hl hx
  have hpos : ¬ (normEnd a.endIndex).toNat ≤ 0 := by have := normEnd_range a.endIndex; omega
  refine ⟨_, by rw [Voice.trigger_of_reloads (v.reloads_hard d), hx, andThen_next, hy, andThen_next], ?_⟩
  exact ⟨hv.of_blocks hxi hyi hxp hyp, rfl, rfl, ⟨[], by simp, hplayed⟩, by simpa using hpos⟩

/-- One more tick: a due one advances the track, which requests the release where it parks. -/
theorem Voice.Ticked.controlTick {d : DriverParams} {m k : Nat} {e : Index} {v : Voice} (hv : v.Ticked d m e k) :
    ∃ w, v.handle d .controlTick = .next w ∧ w.Ticked d m e (k + 1) := by
  obtain ⟨hinv, rfl, rfl, ⟨rs, hlen, hplayed⟩, hreleased⟩ := hv
  cases hdue : advanceDue d v.stepMul (v.ticks + 1) with
  | true =>
    obtain ⟨x, hx, hxi, hxp⟩ := hinv.amp.exists_issue_next (.advance v.released)
    obtain ⟨y, hy, hyi, hyp⟩ := hinv.pitch.exists_issue_next (.advance v.released)
    have hquot := Nat.succ_div_of_dvd ((advanceDue_iff_dvd d _ _).mp hdue)
    have hplayed' : x.PlayedThrough x.params e (rs ++ [v.released]) := by
      rw [issue_eq_exec_decode, decode_encode_advance] at hx
      rw [hxp]
      exact hplayed.advance hx
    have hlen' : (rs ++ [v.released]).length = v.ticks / ticksPerStep d v.stepMul + 1 := by simp [hlen]
    have hrequest : x.rreqQ = true ↔
        v.ticks / ticksPerStep d v.stepMul + 1 = (normEnd e).toNat ∧ v.released = false := by
      have hkind : x.params.kind = .amp := by rw [hxp]; exact hinv.ampKind
      rw [hplayed'.request, hlen']
      simp [hkind]
    refine ⟨_, Voice.controlTick_of_due hdue hx hy, hinv.of_blocks hxi hyi hxp hyp, rfl, rfl,
      ⟨_, hlen'.trans hquot.symm, hplayed'⟩, ?_⟩
    rw [hquot, Bool.or_eq_true_iff, hrequest, hreleased, Bool.eq_false_iff, ne_eq, hreleased]
    omega
  | false =>
    have hquot := Nat.succ_div_of_not_dvd fun h => ne_true_of_eq_false hdue ((advanceDue_iff_dvd d _ _).mpr h)
    refine ⟨_, Voice.controlTick_of_not_due hdue, hinv.of_blocks hinv.amp hinv.pitch rfl rfl, rfl, rfl,
      ⟨rs, hlen.trans hquot.symm, hplayed⟩, ?_⟩
    rw [hquot]
    exact hreleased

theorem Voice.Ticked.controlTicks {d : DriverParams} {m j : Nat} {e : Index} {v : Voice} (hv : v.Ticked d m e j) (k : Nat) :
    ∃ w, Voice.handleAll d (List.replicate k .controlTick) v = .next w ∧ w.Ticked d m e (j + k) := by
  induction k generalizing j v with
  | zero => exact ⟨v, rfl, hv⟩
  | succ k ih =>
    obtain ⟨u, hu, hticked⟩ := hv.controlTick
    obtain ⟨w, hw, hwt⟩ := ih hticked
    exact ⟨w, by rw [List.replicate_succ, Voice.handleAll_cons hu, hw], by rwa [Nat.add_right_comm] at hwt⟩

/-- Settles O58: after the trigger and `k` ticks the voice is released if `k / ticksPerStep` ADVANCEs reach the end. -/
theorem voiceReleasesWhenEnvelopeEnds : Obligations.VoiceReleasesWhenEnvelopeEnds := by
  intro d v a p m k hv hf hl
  obtain ⟨u, hu, hstart⟩ := hv.ticked_of_trigger hf d hl p m
  obtain ⟨w, hw, hticked⟩ := hstart.controlTicks k
  refine ⟨w, by rw [Voice.handleAll_cons hu, hw], ?_⟩
  rw [hticked.released, Nat.zero_add, Nat.le_div_iff_mul_le (ticksPerStep_pos d m)]
  rfl

end Sys2Proof.Machine
end
